-- ==== Sys2Proof/Word.lean ====
section
/-! DEFINITION. The word and byte-string types of the AEO (00_scope.md R21, R22). The types whose size
is a parameter of the protocol (blocks, tags, sizes) stand in Config.lean beside the parameters. -/

namespace Sys2Proof

/-- One 8-bit byte of a byte string (R22). -/
abbrev Byte := BitVec 8

/-- One 32-bit bus word: every register of the window and every command word is one (R21, R32). -/
abbrev Word := BitVec 32

/-- `bytes`: a finite byte string, byte 0 first (R22). `[]` is ε. -/
abbrev Bytes := List Byte

end Sys2Proof
end

