-- ==== Sys2Proof/Config.lean ====
section
/-! DEFINITION. What is fixed for one AEO: the constants of R10 to R17 and R33, each defined here once
(00_scope.md R6), the types they give, and the four OPEN parameters of 92_eei_decisions.md
(SECRET_MAX, BASE, and the collaborators H, E, D, MAC), which are constants with no body: no proof
can see a value of them (log entries 5, 7 and 8). -/

namespace Sys2Proof.Config

/-- BLOCK, the cipher block size in bytes (R10). -/
@[simp] abbrev blockLen : Nat := 16

/-- TAGLEN, the tag size in bytes (R11). -/
@[simp] abbrev tagLen : Nat := 32

/-- HASHLEN, the hash digest size in bytes (R12). -/
@[simp] abbrev hashLen : Nat := 32

/-- WKLEN, the working key size in bytes: one cipher block (R13). -/
@[simp] abbrev wkLen : Nat := 16

/-- ROUNDS, the key-stretching iteration count (R14). -/
def rounds : Nat := 8192

/-- REMBITS, the width of the length-remainder field (R15). -/
@[simp] abbrev remBits : Nat := 4

/-- The length-remainder field's place in its byte, `0x0F`; the rest of the byte is `0xF0` (R15,
R133). -/
abbrev remMask : Byte := BitVec.ofNat 8 (2 ^ remBits - 1)

/-- SIZEW, the width of the file size in bits (R16). -/
@[simp] abbrev sizeBits : Nat := 64

/-- The bytes of an encoded file size, that is of LE64 (R16, R22). -/
@[simp] abbrev sizeLen : Nat := sizeBits / 8

/-- MINCONT, the minimum valid container length (R17). -/
@[simp] abbrev minContainer : Nat := blockLen + tagLen

/-- The largest N and so the largest BLKREM, 2^60 (R66). -/
@[simp] abbrev maxBlocks : Nat := 2 ^ sizeBits / blockLen

/-- The largest byte count of KEY_APPEND and NAME_APPEND: all of DIN (R111). -/
@[simp] abbrev maxCount : Nat := blockLen

/-- The constant the ID register reads (R33). -/
abbrev idValue : Word := 0x41454F01#32

/-- The size of the register window in bytes (R19, R32). -/
abbrev windowLen : Nat := 256

end Sys2Proof.Config

namespace Sys2Proof

/-- `bytes[BLOCK]`: one cipher block; DIN, DOUT, IV, CHAIN and BUF are blocks (R10). -/
abbrev Block := Vector Byte Config.blockLen

/-- `bytes[TAGLEN]`: a MAC digest, TAG and TAGIN (R11). -/
abbrev Tag := Vector Byte Config.tagLen

/-- `bytes[HASHLEN]`: a hash digest (R12). -/
abbrev Digest := Vector Byte Config.hashLen

/-- `bytes[WKLEN]`: the working key, WK (R13). -/
abbrev Key := Vector Byte Config.wkLen

/-- A file size or container length as LEN holds it (R16). -/
abbrev Size := BitVec Config.sizeBits

/-- A value of the length-remainder field, as REM holds it (R15). -/
abbrev Remainder := BitVec Config.remBits

/-- `0^16`, a block of zeros (R22). -/
def zeroBlock : Block := Vector.replicate Config.blockLen 0#8

/-- `0^16`, a working key of zeros (R22). -/
def zeroKey : Key := Vector.replicate Config.wkLen 0#8

/-- `0^32`, a tag of zeros (R22). -/
def zeroTag : Tag := Vector.replicate Config.tagLen 0#8

end Sys2Proof

namespace Sys2Proof.Config

/-- The OPEN parameters of a model: the collaborator functions of R181, R182 and R184 (total
functions of their arguments, R185), and the 32 bits that SECRET_MAX is made of (R18). The digest
size of `mac` is the type's: a MAC of another digest size is no `Params` (R184, 93 G4). -/
structure Params where
  /-- H : bytes -> bytes[32] (R181). -/
  hash : Bytes → Digest
  /-- E(k, x), the raw block cipher's encryption (R182). -/
  encipher : Key → Block → Block
  /-- D(k, y), the raw block cipher's decryption (R182). -/
  decipher : Key → Block → Block
  /-- MAC(k, m) (R184). -/
  mac : Key → Bytes → Tag
  /-- The bits SECRET_MAX is made of; see `Params.secretMax`. -/
  secretMaxBits : BitVec 32
deriving Inhabited

/-- SECRET_MAX: `1 <= SECRET_MAX <= 2^32 - 1` (R18), every value of that range for some bits. -/
def Params.secretMax (P : Params) : Nat := max 1 P.secretMaxBits.toNat

/-- The inverse property assumed of the cipher: `D(k, E(k, x)) = x` (R183). It is a hypothesis of
the statements that need it, never a fact about `Config.params` (93 G5; log entry 6). -/
def Params.CipherInverse (P : Params) : Prop :=
  ∀ (k : Key) (x : Block), P.decipher k (P.encipher k x) = x

/-- The parameters of this AEO: no value is known of them (R18, R20; log entries 5 and 7). -/
opaque params : Params

/-- BASE / 256: the place of the register window on the platform's bus (R19; log entry 8). -/
opaque basePage : Nat

/-- BASE, a multiple of 256 (R19). -/
def base : Nat := windowLen * basePage

end Sys2Proof.Config
end

