-- ==== Sys2Proof/Syntax.lean ====
section
/-! DEFINITION. The commands of the AEO: one constructor per row of spec/opcode_table.json
(30_encoding.md R113). -/

namespace Sys2Proof

/-- The eleven commands. KEY_APPEND and NAME_APPEND carry their 5-bit CNT field (R110, R111); every
other operand of a command is implicit (DIN, TAGIN, LEN; R111). -/
inductive Instr where
  /-- ABORT, OPC 0x01 (R160). -/
  | abort
  /-- KEY_CLEAR, OPC 0x02 (R214). -/
  | keyClear
  /-- KEY_APPEND n, OPC 0x03 (R216). -/
  | keyAppend (n : BitVec 5)
  /-- ENC_START, OPC 0x10 (R241). -/
  | encStart
  /-- NAME_APPEND n, OPC 0x11 (R246). -/
  | nameAppend (n : BitVec 5)
  /-- IV_GEN, OPC 0x12 (R251). -/
  | ivGen
  /-- ENC_BLOCK, OPC 0x13 (R262). -/
  | encBlock
  /-- DEC_START, OPC 0x20 (R271). -/
  | decStart
  /-- IV_LOAD, OPC 0x21 (R276). -/
  | ivLoad
  /-- DEC_BLOCK, OPC 0x22 (R285). -/
  | decBlock
  /-- TAG_CHECK, OPC 0x23 (R295). -/
  | tagCheck
deriving DecidableEq, Repr

/-- The mnemonic of the opcode map (R113), as `MNEMONIC` of the assembler syntax (R117). -/
def Instr.mnemonic : Instr → String
  | .abort => "ABORT"
  | .keyClear => "KEY_CLEAR"
  | .keyAppend _ => "KEY_APPEND"
  | .encStart => "ENC_START"
  | .nameAppend _ => "NAME_APPEND"
  | .ivGen => "IV_GEN"
  | .encBlock => "ENC_BLOCK"
  | .decStart => "DEC_START"
  | .ivLoad => "IV_LOAD"
  | .decBlock => "DEC_BLOCK"
  | .tagCheck => "TAG_CHECK"

/-- The two classes of command (R112). -/
inductive CmdClass where
  /-- No collaborator call; completes in its acceptance step. -/
  | immediate
  /-- Sets BUSY at acceptance and completes in a later step of the sequencer. -/
  | busy
deriving DecidableEq, Repr

/-- The class of each command, fixed by its opcode (R112, R113, R151). -/
def Instr.class : Instr → CmdClass
  | .abort | .keyClear | .keyAppend _ | .decStart => .immediate
  | .encStart | .nameAppend _ | .ivGen | .encBlock | .ivLoad | .decBlock | .tagCheck => .busy

end Sys2Proof
end

