-- ==== Sys2Proof/WellFormed.lean ====
section
/-! DEFINITION. Which terms of `Instr` are commands of the AEO: the one check is the range of CNT
(30_encoding.md R111, R114 item 4). -/

namespace Sys2Proof

/-- KEY_APPEND and NAME_APPEND take a count of 0 to 16 (R111); the others have no operand to check. -/
def Instr.wf : Instr → Bool
  | .keyAppend n => decide (n.toNat ≤ Config.maxCount)
  | .nameAppend n => decide (n.toNat ≤ Config.maxCount)
  | .abort | .keyClear | .encStart | .ivGen | .encBlock => true
  | .decStart | .ivLoad | .decBlock | .tagCheck => true

/-- `Instr.wf` as a proposition. -/
abbrev Instr.WellFormed (i : Instr) : Prop := i.wf = true

end Sys2Proof
end

