-- ==== Sys2Proof/Decode.lean ====
section
/-! DEFINITION. Decoding and encoding of command words (30_encoding.md R110 to R117). -/

namespace Sys2Proof

/-- Why a word is Illegal (R114); `notOneWord` is for a byte string that is not one 32-bit word. -/
inductive DecodeError where
  /-- RSV ≠ 0 (R114 item 2). -/
  | reservedBits
  /-- OPC 0x00, 0x04 to 0x0F, 0x14 to 0x1F or 0x24 to 0xFF (R114 item 1). -/
  | unknownOpcode
  /-- CNT ≠ 0 on an opcode that takes no count (R114 item 3). -/
  | countNotAllowed
  /-- CNT > 16 (R114 item 4). -/
  | countTooLarge
  /-- Not exactly the four bytes of one bus write (R110). -/
  | notOneWord
deriving DecidableEq, Repr

/-- OPC = w[7:0] (R110). -/
def opcField (w : Word) : BitVec 8 := w.extractLsb' 0 8

/-- CNT = w[12:8] (R110, R111). -/
def cntField (w : Word) : BitVec 5 := w.extractLsb' 8 5

/-- RSV = w[31:13] (R110). -/
def rsvField (w : Word) : BitVec 19 := w.extractLsb' 13 19

/-- `lookup(opc)` in the table of R113, the count field put into the commands that take one. -/
def lookupOpcode (opc : BitVec 8) (cnt : BitVec 5) : Option Instr :=
  if opc = 0x01#8 then some .abort
  else if opc = 0x02#8 then some .keyClear
  else if opc = 0x03#8 then some (.keyAppend cnt)
  else if opc = 0x10#8 then some .encStart
  else if opc = 0x11#8 then some (.nameAppend cnt)
  else if opc = 0x12#8 then some .ivGen
  else if opc = 0x13#8 then some .encBlock
  else if opc = 0x20#8 then some .decStart
  else if opc = 0x21#8 then some .ivLoad
  else if opc = 0x22#8 then some .decBlock
  else if opc = 0x23#8 then some .tagCheck
  else none

/-- Does the command take a count? KEY_APPEND and NAME_APPEND only (R111). -/
def Instr.takesCount : Instr → Bool
  | .keyAppend _ | .nameAppend _ => true
  | .abort | .keyClear | .encStart | .ivGen | .encBlock => false
  | .decStart | .ivLoad | .decBlock | .tagCheck => false

/-- `decode(w)` of R115, total on every 32-bit word; `Illegal` carries its reason. -/
def decode (w : Word) : Except DecodeError Instr :=
  if rsvField w ≠ 0#19 then .error .reservedBits
  else match lookupOpcode (opcField w) (cntField w) with
    | none => .error .unknownOpcode
    | some i =>
      if i.takesCount then
        if Config.maxCount < (cntField w).toNat then .error .countTooLarge else .ok i
      else if cntField w ≠ 0#5 then .error .countNotAllowed
      else .ok i

/-- The word of four bytes, byte 0 in the least significant lane (20_memory.md R90). -/
def wordOfBytes (b0 b1 b2 b3 : Byte) : Word := b3 ++ b2 ++ b1 ++ b0

/-- Byte m of a word, bits 8m+7 : 8m (R90). -/
def byteOfWord (w : Word) (m : Nat) : Byte := w.extractLsb' (8 * m) 8

/-- Decoding of any byte string: a command word is exactly four bytes (R110), in the lanes of R90. -/
def decodeBytes : Bytes → Except DecodeError Instr
  | [b0, b1, b2, b3] => decode (wordOfBytes b0 b1 b2 b3)
  | _ => .error .notOneWord

/-- OPC of each command (R113). -/
def Instr.opcode : Instr → BitVec 8
  | .abort => 0x01#8
  | .keyClear => 0x02#8
  | .keyAppend _ => 0x03#8
  | .encStart => 0x10#8
  | .nameAppend _ => 0x11#8
  | .ivGen => 0x12#8
  | .encBlock => 0x13#8
  | .decStart => 0x20#8
  | .ivLoad => 0x21#8
  | .decBlock => 0x22#8
  | .tagCheck => 0x23#8

/-- CNT of each command (R111). -/
def Instr.count : Instr → BitVec 5
  | .keyAppend n => n
  | .nameAppend n => n
  | .abort | .keyClear | .encStart | .ivGen | .encBlock => 0#5
  | .decStart | .ivLoad | .decBlock | .tagCheck => 0#5

/-- The command word of a command: RSV = 0, CNT, OPC (R110, R117). -/
def encode (i : Instr) : Word := (0#19 ++ i.count) ++ i.opcode

/-- The bytes of a command word, in the lanes of R90. -/
def bytesOfWord (w : Word) : Bytes :=
  [byteOfWord w 0, byteOfWord w 1, byteOfWord w 2, byteOfWord w 3]

/-- The four bytes of the word whose low `nbits` bits are `w`'s and whose other bits are 0; more
than four where the table would give a row more than 32 bits (no row of this table does). -/
def tableBytes (nbits w : Nat) : Bytes :=
  (List.range (if nbits ≤ 32 then 4 else (nbits + 7) / 8)).map fun k =>
    BitVec.ofNat 8 (w % 2 ^ nbits / 2 ^ (8 * k))

/-- The command the decoder reads from a row of spec/opcode_table.json. -/
def decodeTableWord (nbits w : Nat) : Option Instr :=
  match decodeBytes (tableBytes nbits w) with
  | .ok i => some i
  | .error _ => none

/-- `MNEMONIC [n]` to its word (R117): an assembler rejects an n outside 0 to 16, an n on a command
that takes none, and (DEDUCED, log entry 21) a missing n on one that takes a count. -/
def assemble (name : String) (n : Option Nat) : Option Word :=
  let plain (i : Instr) : Option Word := if n.isNone then some (encode i) else none
  let counted (f : BitVec 5 → Instr) : Option Word :=
    match n with
    | some k => if k ≤ Config.maxCount then some (encode (f (BitVec.ofNat 5 k))) else none
    | none => none
  if name = "ABORT" then plain .abort
  else if name = "KEY_CLEAR" then plain .keyClear
  else if name = "KEY_APPEND" then counted .keyAppend
  else if name = "ENC_START" then plain .encStart
  else if name = "NAME_APPEND" then counted .nameAppend
  else if name = "IV_GEN" then plain .ivGen
  else if name = "ENC_BLOCK" then plain .encBlock
  else if name = "DEC_START" then plain .decStart
  else if name = "IV_LOAD" then plain .ivLoad
  else if name = "DEC_BLOCK" then plain .decBlock
  else if name = "TAG_CHECK" then plain .tagCheck
  else none

end Sys2Proof
end

