-- ==== Sys2Proof/Machine/State.lean ====
section
/-! DEFINITION. The state of the AEO (10_state.md R30 to R63), the outside world's pending actions
upon it, and the state after reset (70_reset_and_hazards.md R341). -/

namespace Sys2Proof.Machine

open Sys2Proof

/-- The sequencer states of STATUS.STATE (R36). Values 8 to 15 are never held. -/
inductive SeqState where
  | idle | eName | eStream | dIv | dStream | dTag | done | error
deriving DecidableEq, Repr

/-- The error codes of STATUS.ERR (R300). Codes 8 to 15 are never produced. -/
inductive ErrCode where
  | none | format | auth | illegalCmd | badState | overrun | keyOvf | primFail
deriving DecidableEq, Repr

/-- Why an access is answered with an error. -/
inductive Fault where
  /-- `BusError` (R92): an access of a width other than 32 bits, unaligned, or at a reserved offset.
  Raised by the window's address decode and returned to the host in `State.reply`; it changes no
  state of the AEO, which goes on, so no step ENDS in it. Safe: the spec gives this response. -/
  | busError
deriving DecidableEq, Repr

/-- Why a step has no meaning. -/
inductive Refusal where
  /-- No meaning for the instruction. Raised by nothing: every command has its meaning. Safe. -/
  | notModelled (mnemonic : String)
deriving DecidableEq, Repr

/-- `snap`: the operands of a command at its acceptance (R63, R152). -/
structure Snap where
  din : Block
  tagin : Tag
  len : Size
  secret : Bytes
  keylen : BitVec 32
deriving DecidableEq, Repr

/-- PEND when a command is between accept and complete: opcode, CNT and snap (R63). -/
structure Pending where
  /-- The opcode and, for NAME_APPEND, its CNT. -/
  cmd : Instr
  snap : Snap
deriving DecidableEq, Repr

/-- The width of a host access (R92). -/
inductive Width where
  | w8 | w16 | w32 | w64
  /-- Any other number of bytes, which R92 does not list (DEDUCED: BusError too, log entry 25). -/
  | other (bytes : Nat)
deriving DecidableEq, Repr

/-- One action of the world outside the AEO (R30; log entries 1 and 3). -/
inductive Input where
  /-- A host read at BASE + off. -/
  | read (off : BitVec 8) (width : Width)
  /-- A host write at BASE + off; a narrower access uses the low bits of `data`. -/
  | write (off : BitVec 8) (width : Width) (data : BitVec 64)
  /-- Every collaborator call of the busy command has been answered, and the sequencer takes its
  completion step (R97, R151); `pf`: some call answered with an error (R186). -/
  | complete (pf : Bool)
  /-- The platform's reset event (R340). -/
  | reset
deriving DecidableEq, Repr

/-- The answer to the host's last access. -/
inductive Reply where
  /-- No access yet. -/
  | none
  /-- The value a read returned. -/
  | data (v : Word)
  /-- A write was taken (which includes a write the register ignores, R31). -/
  | ack
  /-- The error response (R92). -/
  | error (f : Fault)
deriving DecidableEq, Repr

/-- The state of the AEO. ID, CMD, LAST and irq are not stored: ID is a constant (R33), CMD reads 0
(R34), LAST and irq are functions of the state (R40, R64). -/
structure State where
  /-- STATUS.STATE (R36). -/
  state : SeqState
  /-- STATUS.BUSY (R37). -/
  busy : Bool
  /-- STATUS.DIR: false encrypt, true decrypt (R38). -/
  dir : Bool
  /-- STATUS.AUTH_OK (R39). -/
  authOk : Bool
  /-- STATUS.ERR (R41). -/
  err : ErrCode
  /-- STATUS.DOUT_CNT (R42). -/
  doutCnt : BitVec 5
  /-- REM, shown in STATUS.REM (R43). -/
  rem : Remainder
  /-- STATUS.OVR (R44). -/
  ovr : Bool
  /-- INT_EN.CMPL_IE (R46). -/
  cmplIe : Bool
  /-- INT_EN.FAIL_IE (R46). -/
  failIe : Bool
  /-- INT_STAT.CMPL (R47). -/
  cmpl : Bool
  /-- INT_STAT.FAIL (R47). -/
  fail : Bool
  /-- LEN (R48). -/
  len : Size
  /-- KEYLEN (R49). -/
  keylen : BitVec 32
  /-- BLKREM (R50). -/
  blkrem : BitVec 64
  /-- DIN (R51). -/
  din : Block
  /-- DOUT (R52). -/
  dout : Block
  /-- TAG (R53). -/
  tag : Tag
  /-- TAGIN (R54). -/
  tagin : Tag
  /-- SECRET (R55). -/
  secret : Bytes
  /-- IV (R56). -/
  iv : Block
  /-- WK (R57). -/
  wk : Key
  /-- CHAIN (R58). -/
  chain : Block
  /-- BUF (R59). -/
  buf : Block
  /-- HMSG (R60). -/
  hmsg : Bytes
  /-- MMSG (R61). -/
  mmsg : Bytes
  /-- LASTCNT (R62). -/
  lastCnt : BitVec 5
  /-- PEND (R63). -/
  pend : Option Pending
  /-- ABRT (R63). -/
  abrt : Bool
  /-- The MODEL's own: `some pf` while the sequencer takes a completion step with that draw, so that
  `exec` knows which of a command's two phases to run (log entries 2 and 3). -/
  completing : Option Bool
  /-- The MODEL's own: what the outside world does next, in order (log entry 1). -/
  inputs : List Input
  /-- The MODEL's own: the answer to the host's last access (log entry 4). -/
  reply : Reply
deriving DecidableEq, Repr

/-- The state after reset: every element at the value of R341; the model's own three fields say that
nothing outside has happened yet (log entry 10). -/
def State.reset : State where
  state := .idle
  busy := false
  dir := false
  authOk := false
  err := .none
  doutCnt := 0#5
  rem := 0
  ovr := false
  cmplIe := false
  failIe := false
  cmpl := false
  fail := false
  len := 0
  keylen := 0#32
  blkrem := 0#64
  din := zeroBlock
  dout := zeroBlock
  tag := zeroTag
  tagin := zeroTag
  secret := []
  iv := zeroBlock
  wk := zeroKey
  chain := zeroBlock
  buf := zeroBlock
  hmsg := []
  mmsg := []
  lastCnt := 0#5
  pend := none
  abrt := false
  completing := none
  inputs := []
  reply := .none

end Sys2Proof.Machine
end

