-- ==== Sys2Proof/Machine/Bytes.lean ====
section
/-! DEFINITION. The operations on byte strings, blocks and lanes that the rules use
(00_scope.md R22, R23; 20_memory.md R90; 44_chain_transform.md R230). -/

namespace Sys2Proof.Machine

open Sys2Proof

/-- LE64(v): byte i is v[8i+7:8i] (R22). -/
def le64 (v : Size) : Bytes :=
  (List.range Config.sizeLen).map fun i => v.extractLsb' (8 * i) 8

/-- Byte k of a byte string, 0 beyond its end. -/
def byteAt (b : Bytes) (k : Nat) : Byte := b.getD k 0#8

/-- The first n bytes of a byte string, `b[0..n)`, with zeros beyond its end. -/
def firstN (n : Nat) (b : Bytes) : Vector Byte n := Vector.ofFn fun i => byteAt b i.val

/-- The block of a byte string's first BLOCK bytes. -/
def blockOf (b : Bytes) : Block := firstN Config.blockLen b

/-- The tag of a byte string's first TAGLEN bytes. -/
def tagOf (b : Bytes) : Tag := firstN Config.tagLen b

/-- The working key of a byte string's first WKLEN bytes. -/
def keyOf (b : Bytes) : Key := firstN Config.wkLen b

/-- `a ⊕ b`, the bytewise XOR of two blocks (R230). -/
def xorBlock (a b : Block) : Block := Vector.ofFn fun i => a[i] ^^^ b[i]

/-- `b[0..n)` of a block. -/
def firstBytes (n : Nat) (b : Block) : Bytes := b.toList.take n

/-- `dst` with its first n bytes replaced by those of `src`; bytes n to 15 keep their values (R262). -/
def overlay (n : Nat) (src dst : Block) : Block :=
  Vector.ofFn fun i => if i.val < n then src[i] else dst[i]

/-- The low four bits of a byte, `b & 0x0F` (R15). -/
def lowNibble (b : Byte) : Remainder := (b &&& Config.remMask).setWidth Config.remBits

/-- `(b & 0xF0) | r` (R133). -/
def withLowNibble (b : Byte) (r : Remainder) : Byte := (b &&& ~~~Config.remMask) ||| r.setWidth 8

/-- The last byte of a block, IV[15] of an IV, which holds the length-remainder field (R15). -/
def lastByte (b : Block) : Byte := b[Config.blockLen - 1]

/-- An IV with its length-remainder field IV[15][3:0] set (R15, R133). -/
def withRemainder (iv : Block) (r : Remainder) : Block :=
  iv.set (Config.blockLen - 1) (withLowNibble (lastByte iv) r)

/-- Register j of a block register: byte 4j in lane 0 (R90, R51). -/
def readLanes {n : Nat} (v : Vector Byte n) (j : Nat) : Word :=
  wordOfBytes (byteAt v.toList (4 * j)) (byteAt v.toList (4 * j + 1))
    (byteAt v.toList (4 * j + 2)) (byteAt v.toList (4 * j + 3))

/-- A block register after a write of w to its register j (R90, R51). -/
def writeLanes {n : Nat} (v : Vector Byte n) (j : Nat) (w : Word) : Vector Byte n :=
  Vector.ofFn fun i => if i.val / 4 = j then byteOfWord w (i.val % 4) else v[i]

/-- `ct_eq(a, b)`: the OR over all 32 byte pairs of their XOR is 0, with no early exit (R296). -/
def ctEq (a b : Tag) : Bool :=
  (a.toList.zip b.toList).foldl (fun acc p => acc ||| (p.1 ^^^ p.2)) 0#8 == 0#8

end Sys2Proof.Machine
end

