-- ==== Sys2Proof/Machine/Container.lean ====
section
/-! DEFINITION. The container's layout and the arithmetic of its lengths (30_encoding.md R130 to
R135; 45_encrypt_path.md R241 to R243). Lengths here are the naturals that 64-bit registers hold. -/

namespace Sys2Proof.Machine

open Sys2Proof

/-- `ceil(a/b)` computed without overflow (R23). -/
def ceilDiv (a b : Nat) : Nat := a / b + (if a % b ≠ 0 then 1 else 0)

/-- N(L), the number of ciphertext blocks of a plaintext of L bytes (R241). -/
def blockCount (L : Nat) : Nat := if L = 0 then 1 else ceilDiv L Config.blockLen

/-- LASTCNT for a plaintext of L bytes: how many the final block takes (R241, R243). -/
def lastCount (L : Nat) : Nat :=
  if L = 0 then 0 else L - Config.blockLen * (blockCount L - 1)

/-- CL = 48 + 16 N (R131). -/
def containerLen (N : Nat) : Nat := Config.minContainer + Config.blockLen * N

/-- Is CL a well-formed container length? (R132) -/
def wellFormedLen (CL : Nat) : Bool :=
  decide (Config.minContainer ≤ CL) && (CL - Config.minContainer) % Config.blockLen == 0

/-- N of a well-formed container length (R132). -/
def containerBlocks (CL : Nat) : Nat := (CL - Config.minContainer) / Config.blockLen

/-- How many plaintext bytes a final block yields: REM, or 16 for REM = 0 (R135). -/
def finalYield (rem : Nat) : Nat := if rem ≠ 0 then rem else Config.blockLen

/-- The plaintext length that decryption recovers from N blocks and REM (R135). -/
def recoveredLen (N rem : Nat) : Nat :=
  if N = 0 then 0 else Config.blockLen * (N - 1) + finalYield rem

/-- container[0..16) (R130). -/
def containerIv (c : Bytes) : Bytes := c.take Config.blockLen

/-- Ciphertext block i of a container (R130). -/
def containerBlock (c : Bytes) (i : Nat) : Bytes :=
  (c.drop (Config.blockLen + Config.blockLen * i)).take Config.blockLen

/-- The tag of a container: its last 32 bytes (R130). -/
def containerTag (c : Bytes) : Bytes := c.drop (c.length - Config.tagLen)

/-- The container: IV ‖ ciphertext blocks ‖ tag (R130). -/
def container (iv : Block) (blocks : List Block) (tag : Tag) : Bytes :=
  iv.toList ++ (blocks.flatMap fun b => b.toList) ++ tag.toList

end Sys2Proof.Machine
end

