-- ==== Sys2Proof/Machine/Protocol.lean ====
section
/-! DEFINITION. The protocol's pure functions, over any collaborators: the IV deriver (R200), the key
schedule (R210) and the chained block transform (R230 to R232). -/

namespace Sys2Proof.Machine

open Sys2Proof

/-- `H(m)` and then its first BLOCK bytes with the remainder nibble set: what IV_GEN makes of HMSG
(R251), and deriveIV's body (R200). -/
def ivOfMessage (P : Config.Params) (m : Bytes) (r : Remainder) : Block :=
  withRemainder (blockOf (P.hash m).toList) r

/-- `L & 0x0F`, the length-remainder field of a file size (R133, R241). -/
def remainderOf (L : Size) : Remainder := lowNibble (L.setWidth 8)

/-- deriveIV(L, name) (R200). -/
def deriveIV (P : Config.Params) (L : Size) (name : Bytes) : Block :=
  ivOfMessage P (le64 L ++ name) (remainderOf L)

/-- k rounds of `d <- H(d ‖ S)` (R210). -/
def stretchRounds (P : Config.Params) (S : Bytes) : Nat → Bytes → Bytes
  | 0, d => d
  | k + 1, d => stretchRounds P S k (P.hash (d ++ S)).toList

/-- stretchKey(S, iv): 8192 rounds from iv, then the first WKLEN bytes (R210). -/
def stretchKey (P : Config.Params) (S : Bytes) (iv : Block) : Key :=
  keyOf (stretchRounds P S Config.rounds iv.toList)

/-- EncBlock(k, p, chain) = (c, chain') (R231). -/
def encryptBlock (P : Config.Params) (k : Key) (p chain : Block) : Block × Block :=
  let c := P.encipher k (xorBlock p chain)
  (c, c)

/-- DecBlock(k, c, chain) = (p, chain'): the next chaining value is the input ciphertext (R232). -/
def decryptBlock (P : Config.Params) (k : Key) (c chain : Block) : Block × Block :=
  (xorBlock (P.decipher k c) chain, c)

end Sys2Proof.Machine
end

