-- ==== Sys2Proof/Machine/Operands.lean ====
section
/-! DEFINITION. The operand forms of the commands: all are implicit but CNT, and the host-written
ones are read through the snapshot only (30_encoding.md R111; 40_command_model.md R152). -/

namespace Sys2Proof.Machine

open Sys2Proof

/-- snap: DIN, TAGIN, LEN, SECRET and KEYLEN as they are at acceptance (R150, R152). -/
def snapshot (s : State) : Snap :=
  { din := s.din, tagin := s.tagin, len := s.len, secret := s.secret, keylen := s.keylen }

/-- snap.DIN[0..n), n the CNT field (R111). -/
def Snap.counted (p : Snap) (n : BitVec 5) : Bytes := firstBytes n.toNat p.din

/-- n of ENC_BLOCK: LASTCNT for the final block, 16 otherwise (R262). -/
def encTake (s : State) : Nat :=
  if s.blkrem = 1#64 then s.lastCnt.toNat else Config.blockLen

/-- BUF after ENC_BLOCK has taken its plaintext bytes; the bytes beyond them stay (R262). -/
def filledBuf (p : Snap) (s : State) : Block := overlay (encTake s) p.din s.buf

/-- cnt of DEC_BLOCK: REM for a final block with REM ≠ 0, 16 otherwise (R285). -/
def decYield (s : State) : Nat :=
  if s.blkrem = 1#64 ∧ s.rem ≠ 0 then s.rem.toNat else Config.blockLen

end Sys2Proof.Machine
end

