-- ==== Sys2Proof/Machine/Collaborators.lean ====
section
/-! DEFINITION. The collaborator calls each command issues, in order (41_collaborators.md R189,
R102). -/

namespace Sys2Proof.Machine

open Sys2Proof

/-- One call on a collaborator port (R180, R181, R182, R184). -/
inductive Call where
  | hashInit
  | hashUpdate (m : Bytes)
  | hashDigest
  /-- Hs(m): one complete hash of m. -/
  | hashWhole (m : Bytes)
  | encipher (k : Key) (x : Block)
  | decipher (k : Key) (y : Block)
  | macInit (k : Key)
  | macUpdate (m : Bytes)
  | macDigest
deriving DecidableEq, Repr

/-- The calls of k stretching rounds from d: one complete hash of `d ‖ S` each (R189, R210). -/
def stretchCalls (P : Config.Params) (S : Bytes) : Nat → Bytes → List Call
  | 0, _ => []
  | k + 1, d => .hashWhole (d ++ S) :: stretchCalls P S k (P.hash (d ++ S)).toList

/-- The calls a command issues if none of them fails, in order (R189). -/
def calls (P : Config.Params) (i : Instr) (p : Snap) (s : State) : List Call :=
  match i with
  | .abort => []
  | .keyClear => []
  | .keyAppend _ => []
  | .decStart => []
  | .encStart => [.hashInit, .hashUpdate (le64 p.len)]
  | .nameAppend n => if n = 0#5 then [] else [.hashUpdate (p.counted n)]
  | .ivGen =>
    let iv := ivOfMessage P s.hmsg s.rem
    .hashDigest :: (stretchCalls P p.secret Config.rounds iv.toList ++
      [.macInit (stretchKey P p.secret iv)])
  | .encBlock =>
    let c := (encryptBlock P s.wk (filledBuf p s) s.chain).1
    .encipher s.wk (xorBlock (filledBuf p s) s.chain) :: .macUpdate c.toList ::
      (if s.blkrem = 1#64 then [.macDigest] else [])
  | .ivLoad =>
    stretchCalls P p.secret Config.rounds p.din.toList ++ [.macInit (stretchKey P p.secret p.din)]
  | .decBlock => [.macUpdate p.din.toList, .decipher s.wk p.din]
  | .tagCheck => [.macDigest]

end Sys2Proof.Machine
end

