-- ==== Sys2Proof/Machine/Ops.lean ====
section
/-! DEFINITION. The operations the commands share: clearing (R157), error entry (R305) and leaving it
by ABORT (R160, R309), acceptance (R150) and completion (R151) (40_command_model.md,
60_exceptions.md). -/

namespace Sys2Proof.Machine

open Sys2Proof

/-- What `exec` and the meanings answer. -/
abbrev Out := Host.Outcome State Fault Refusal

/-- What `perform` returns: the state with its results, or the error it raises (R154). -/
abbrev Performed := Except ErrCode State

/-- done_clear() (R157). -/
def doneClear (s : State) : State :=
  { s with
    iv := zeroBlock, wk := zeroKey, chain := zeroBlock, buf := zeroBlock,
    hmsg := [], mmsg := [], lastCnt := 0#5 }

/-- op_clear() (R157). -/
def opClear (s : State) : State :=
  { s with
    iv := zeroBlock, wk := zeroKey, chain := zeroBlock, buf := zeroBlock,
    hmsg := [], mmsg := [], lastCnt := 0#5,
    dout := zeroBlock, doutCnt := 0#5, tag := zeroTag,
    blkrem := 0#64, rem := 0, authOk := false }

/-- Error entry, `raise Error(code)`: the one way an exception is taken (R305). -/
def raiseError (code : ErrCode) (s : State) : State :=
  { opClear s with
    err := code, state := .error, fail := true,
    pend := none, busy := false, abrt := false, ovr := false }

/-- The actions of ABORT, which are also how ERROR is left for IDLE (R160, R309). -/
def abortActions (s : State) : State :=
  { opClear s with err := .none, ovr := false, state := .idle }

/-- finish_ok() (R151). -/
def finishOk (s : State) : State :=
  { s with cmpl := true, pend := none, busy := false, abrt := false, ovr := false }

/-- A success within the acceptance step: INT_STAT.CMPL <- 1 (R150). -/
def setCmpl (s : State) : State := { s with cmpl := true }

/-- PEND <- (op, cnt, snap); BUSY <- 1 (R150). -/
def hold (i : Instr) (p : Snap) (s : State) : State := { s with pend := some ⟨i, p⟩, busy := true }

/-- The end of a completion step, in the model's own field (log entry 2). -/
def endStep (s : State) : State := { s with completing := none }

/-- Legal(op), the states in which a command may be accepted (R155). -/
def legal (i : Instr) (q : SeqState) : Bool :=
  match i with
  | .abort => true
  | .keyClear => q == .idle || q == .done || q == .error
  | .keyAppend _ => q == .idle || q == .done || q == .error
  | .encStart => q == .idle || q == .done || q == .error
  | .decStart => q == .idle || q == .done || q == .error
  | .nameAppend _ => q == .eName
  | .ivGen => q == .eName
  | .encBlock => q == .eStream
  | .ivLoad => q == .dIv
  | .decBlock => q == .dStream
  | .tagCheck => q == .dTag

/-- A CMD write while BUSY = 1: ABORT sets ABRT, any other word sets OVR (R150, R158, R160). -/
def whileBusy (isAbort : Bool) (s : State) : State :=
  if isAbort then { s with abrt := true } else { s with ovr := true }

/-- The acceptance checks of R150 in their order, and `go` on the snapshot when all pass. A term with
CNT > 16 is the illegal word of R114 item 4 (log entry 11). -/
def acceptThen (i : Instr) (s : State) (go : Snap → State) : State :=
  if s.busy then whileBusy (i == .abort) s
  else if !i.wf then raiseError .illegalCmd s
  else if !legal i s.state then raiseError .badState s
  else go (snapshot s)

/-- What the acceptance step leaves of s when `perform` has returned: its results with CMPL set, or the
error it raised (R150, R151). -/
def commit (s : State) : Performed → State
  | .ok t => setCmpl t
  | .error e => raiseError e s

/-- An immediate-class command: `perform` within the acceptance step (R150, R151). -/
def immediate (i : Instr) (perform : Snap → State → Performed) (s : State) : Out :=
  .next (acceptThen i s fun p => commit s (perform p s))

/-- Is this the completion step of the command i? Its draw and its snapshot, if so (R63, R151). -/
def completionOf (i : Instr) (s : State) : Option (Bool × Snap) :=
  match s.completing, s.pend with
  | some pf, some p => if p.cmd = i then some (pf, p.snap) else none
  | _, _ => none

/-- `complete()` of R151: a pending ABORT, then OVERRUN, then a failed call, then `perform`. -/
def complete (anyCall pf : Bool) (perform : State → Performed) (s : State) : State :=
  if s.abrt then endStep (finishOk (abortActions s))
  else if s.ovr then endStep (raiseError .overrun s)
  else if anyCall && pf then endStep (raiseError .primFail s)
  else match perform s with
    | .ok t => endStep (finishOk t)
    | .error e => endStep (raiseError e s)

/-- A busy-class command: accepted into PEND (R150), or in its completion step (R151). -/
def busyClass (i : Instr) (perform : Snap → State → Performed) (s : State) : Out :=
  match completionOf i s with
  | some (pf, p) => .next (complete (!(calls Config.params i p s).isEmpty) pf (perform p) s)
  | none => .next (acceptThen i s fun p => hold i p s)

end Sys2Proof.Machine
end

