-- ==== Sys2Proof/Machine/Control.lean ====
section
/-! DEFINITION. ABORT (40_command_model.md R160). -/

namespace Sys2Proof.Machine

open Sys2Proof

/-- perform(ABORT) (R160). -/
def performAbort (_ : Snap) (s : State) : Performed := .ok (abortActions s)

/-- ABORT: immediate when BUSY = 0; when BUSY = 1 it sets ABRT, and the busy command's completion
then performs the same actions (R160). -/
def execAbort (s : State) : Out := immediate .abort performAbort s

end Sys2Proof.Machine
end

