-- ==== Sys2Proof/Machine/Decrypt.lean ====
section
/-! DEFINITION. DEC_START, IV_LOAD, DEC_BLOCK and TAG_CHECK (46_decrypt_path.md). -/

namespace Sys2Proof.Machine

open Sys2Proof

/-- perform(DEC_START, snap) (R271). -/
def performDecStart (p : Snap) (s : State) : Performed :=
  if wellFormedLen p.len.toNat then
    .ok { opClear s with
      err := .none
      dir := true
      blkrem := BitVec.ofNat 64 (containerBlocks p.len.toNat)
      state := .dIv }
  else .error .format

/-- perform(IV_LOAD, snap) (R276). -/
def performIvLoad (P : Config.Params) (p : Snap) (s : State) : Performed :=
  .ok { s with
    iv := p.din
    rem := lowNibble (lastByte p.din)
    wk := stretchKey P p.secret p.din
    chain := p.din
    mmsg := []
    state := if s.blkrem = 0#64 then .dTag else .dStream }

/-- perform(DEC_BLOCK, snap) (R285): bytes of DOUT from cnt on read 0. -/
def performDecBlock (P : Config.Params) (p : Snap) (s : State) : Performed :=
  let (plain, chain) := decryptBlock P s.wk p.din s.chain
  let cnt := decYield s
  let blkrem := s.blkrem - 1#64
  .ok { s with
    mmsg := s.mmsg ++ p.din.toList
    chain := chain
    dout := overlay cnt plain zeroBlock
    doutCnt := BitVec.ofNat 5 cnt
    blkrem := blkrem
    state := if blkrem = 0#64 then .dTag else s.state }

/-- perform(TAG_CHECK, snap) (R295). -/
def performTagCheck (P : Config.Params) (p : Snap) (s : State) : Performed :=
  if ctEq (P.mac s.wk s.mmsg) p.tagin then
    .ok { doneClear { s with authOk := true } with state := .done }
  else .error .auth

/-- DEC_START (R271). -/
def execDecStart (s : State) : Out := immediate .decStart performDecStart s

/-- IV_LOAD (R276). -/
def execIvLoad (s : State) : Out := busyClass .ivLoad (performIvLoad Config.params) s

/-- DEC_BLOCK (R285). -/
def execDecBlock (s : State) : Out := busyClass .decBlock (performDecBlock Config.params) s

/-- TAG_CHECK (R295). -/
def execTagCheck (s : State) : Out := busyClass .tagCheck (performTagCheck Config.params) s

end Sys2Proof.Machine
end

