-- ==== Sys2Proof/Machine/Encrypt.lean ====
section
/-! DEFINITION. ENC_START, NAME_APPEND, IV_GEN and ENC_BLOCK (45_encrypt_path.md). -/

namespace Sys2Proof.Machine

open Sys2Proof

/-- perform(ENC_START, snap) (R241). -/
def performEncStart (p : Snap) (s : State) : Performed :=
  .ok { opClear s with
    err := .none
    dir := false
    blkrem := BitVec.ofNat 64 (blockCount p.len.toNat)
    rem := remainderOf p.len
    lastCnt := BitVec.ofNat 5 (lastCount p.len.toNat)
    hmsg := le64 p.len
    state := .eName }

/-- perform(NAME_APPEND, n, snap) (R246). -/
def performNameAppend (n : BitVec 5) (p : Snap) (s : State) : Performed :=
  .ok { s with hmsg := s.hmsg ++ p.counted n }

/-- perform(IV_GEN, snap) (R251). -/
def performIvGen (P : Config.Params) (p : Snap) (s : State) : Performed :=
  let iv := ivOfMessage P s.hmsg s.rem
  .ok { s with
    iv := iv
    wk := stretchKey P p.secret iv
    chain := iv
    mmsg := []
    hmsg := []
    dout := iv
    doutCnt := BitVec.ofNat 5 Config.blockLen
    state := .eStream }

/-- perform(ENC_BLOCK, snap) (R262): the last block also makes TAG and enters DONE (R263). -/
def performEncBlock (P : Config.Params) (p : Snap) (s : State) : Performed :=
  let buf := filledBuf p s
  let (c, chain) := encryptBlock P s.wk buf s.chain
  let mmsg := s.mmsg ++ c.toList
  let t := { s with
    buf := buf
    chain := chain
    mmsg := mmsg
    dout := c
    doutCnt := BitVec.ofNat 5 Config.blockLen
    blkrem := s.blkrem - 1#64 }
  if t.blkrem = 0#64 then
    .ok { doneClear { t with tag := P.mac s.wk mmsg } with state := .done }
  else .ok t

/-- ENC_START (R241). -/
def execEncStart (s : State) : Out := busyClass .encStart performEncStart s

/-- NAME_APPEND n (R246). -/
def execNameAppend (n : BitVec 5) (s : State) : Out :=
  busyClass (.nameAppend n) (performNameAppend n) s

/-- IV_GEN (R251). -/
def execIvGen (s : State) : Out := busyClass .ivGen (performIvGen Config.params) s

/-- ENC_BLOCK (R262). -/
def execEncBlock (s : State) : Out := busyClass .encBlock (performEncBlock Config.params) s

end Sys2Proof.Machine
end

