-- ==== Sys2Proof/Machine/Key.lean ====
section
/-! DEFINITION. KEY_CLEAR and KEY_APPEND (43_key_schedule.md R214, R216). -/

namespace Sys2Proof.Machine

open Sys2Proof

/-- perform(KEY_CLEAR) (R214). -/
def performKeyClear (_ : Snap) (s : State) : Performed :=
  .ok { s with secret := [], keylen := 0#32 }

/-- perform(KEY_APPEND, n, snap) for a buffer of `secretMax` bytes (R216). -/
def performKeyAppend (secretMax : Nat) (n : BitVec 5) (p : Snap) (s : State) : Performed :=
  if secretMax < p.keylen.toNat + n.toNat then .error .keyOvf
  else .ok { s with
    secret := p.secret ++ p.counted n
    keylen := p.keylen + n.setWidth 32 }

/-- KEY_CLEAR (R214). -/
def execKeyClear (s : State) : Out := immediate .keyClear performKeyClear s

/-- KEY_APPEND n (R216). -/
def execKeyAppend (n : BitVec 5) (s : State) : Out :=
  immediate (.keyAppend n) (performKeyAppend Config.params.secretMax n) s

end Sys2Proof.Machine
end

