-- ==== Sys2Proof/Machine/Dispatch.lean ====
section
/-! DEFINITION. What the sequencer does with a decoded command: presented to it, or in its completion
step (log entry 2). -/

namespace Sys2Proof.Machine

open Sys2Proof

def exec (i : Instr) (s : State) : Host.Outcome State Fault Refusal :=
  match i with
  | .abort => Sys2Proof.Machine.execAbort s
  | .keyClear => Sys2Proof.Machine.execKeyClear s
  | .keyAppend n => Sys2Proof.Machine.execKeyAppend n s
  | .encStart => Sys2Proof.Machine.execEncStart s
  | .nameAppend n => Sys2Proof.Machine.execNameAppend n s
  | .ivGen => Sys2Proof.Machine.execIvGen s
  | .encBlock => Sys2Proof.Machine.execEncBlock s
  | .decStart => Sys2Proof.Machine.execDecStart s
  | .ivLoad => Sys2Proof.Machine.execIvLoad s
  | .decBlock => Sys2Proof.Machine.execDecBlock s
  | .tagCheck => Sys2Proof.Machine.execTagCheck s

end Sys2Proof.Machine
end

