-- ==== Sys2Proof/Machine/Flags.lean ====
section
/-! DEFINITION. The flags of the AEO and the words they are read in: STATUS, INT_EN, INT_STAT and the
interrupt output (10_state.md R35 to R47, R64, R67; 60_exceptions.md R300). -/

namespace Sys2Proof.Machine

open Sys2Proof

/-- The encoding of STATUS.STATE (R36). -/
def SeqState.code : SeqState → BitVec 4
  | .idle => 0#4
  | .eName => 1#4
  | .eStream => 2#4
  | .dIv => 3#4
  | .dStream => 4#4
  | .dTag => 5#4
  | .done => 6#4
  | .error => 7#4

/-- The encoding of STATUS.ERR (R300). -/
def ErrCode.code : ErrCode → BitVec 4
  | .none => 0#4
  | .format => 1#4
  | .auth => 2#4
  | .illegalCmd => 3#4
  | .badState => 4#4
  | .overrun => 5#4
  | .keyOvf => 6#4
  | .primFail => 7#4

/-- One bit of a register. -/
def bit (b : Bool) : BitVec 1 := BitVec.ofBool b

/-- STATUS.LAST: 1 iff STATE is E_STREAM or D_STREAM and BLKREM = 1 (R40). -/
def State.last (s : State) : Bool :=
  (s.state == .eStream || s.state == .dStream) && s.blkrem == 1#64

/-- The value STATUS reads, reserved bits 0 (R35, R45). -/
def State.statusWord (s : State) : Word :=
  0#7 ++ bit s.ovr ++ s.rem ++ 0#3 ++ s.doutCnt ++ s.err.code ++ bit s.last ++ bit s.authOk ++
    bit s.dir ++ bit s.busy ++ s.state.code

/-- The value INT_EN reads, bits 31:2 being 0 (R46). -/
def State.intEnWord (s : State) : Word := 0#30 ++ bit s.failIe ++ bit s.cmplIe

/-- The value INT_STAT reads, bits 31:2 being 0 (R47). -/
def State.intStatWord (s : State) : Word := 0#30 ++ bit s.fail ++ bit s.cmpl

/-- A write of w to INT_EN: bits 31:2 ignored (R46). -/
def State.writeIntEn (s : State) (w : Word) : State :=
  { s with cmplIe := w.getLsbD 0, failIe := w.getLsbD 1 }

/-- A write of w to INT_STAT: a 1 clears its bit, a 0 leaves it (R47). -/
def State.writeIntStat (s : State) (w : Word) : State :=
  { s with cmpl := s.cmpl && !w.getLsbD 0, fail := s.fail && !w.getLsbD 1 }

/-- irq, the interrupt output: a level, not state (R64, R310). -/
def State.irq (s : State) : Bool := (s.cmpl && s.cmplIe) || (s.fail && s.failIe)

end Sys2Proof.Machine
end

