-- ==== Sys2Proof/Machine/Window.lean ====
section
/-! DEFINITION. The register window: its address decode and the reading and writing of every register
but the writing of CMD (10_state.md R31 to R54; 20_memory.md R90 to R96). -/

namespace Sys2Proof.Machine

open Sys2Proof

/-- The registers of the window (R32). -/
inductive Reg where
  | id | cmd | status | intEn | intStat | lenLo | lenHi | keylen | blkremLo | blkremHi
  | din (j : Fin 4)
  | dout (j : Fin 4)
  | tag (j : Fin 8)
  | tagin (j : Fin 8)
deriving DecidableEq, Repr

/-- The access types of R31. -/
inductive AccessType where
  | ro | wo | rw | w1c
deriving DecidableEq, Repr

/-- The access type of each register (R32). -/
def Reg.access : Reg → AccessType
  | .id | .status | .keylen | .blkremLo | .blkremHi | .dout _ | .tag _ => .ro
  | .cmd | .din _ | .tagin _ => .wo
  | .intEn | .lenLo | .lenHi => .rw
  | .intStat => .w1c

/-- The register at an offset; none where it is unaligned or reserved (R32, R92). -/
def regAt (off : BitVec 8) : Option Reg :=
  let k := off.toNat / 4
  if off.toNat % 4 ≠ 0 then none
  else if k = 0 then some .id
  else if k = 1 then some .cmd
  else if k = 2 then some .status
  else if k = 3 then some .intEn
  else if k = 4 then some .intStat
  else if k = 5 then some .lenLo
  else if k = 6 then some .lenHi
  else if k = 7 then some .keylen
  else if k = 8 then some .blkremLo
  else if k = 9 then some .blkremHi
  else if k < 12 then none
  else if h : k - 12 < 4 then some (.din ⟨k - 12, h⟩)
  else if h : k - 16 < 4 then some (.dout ⟨k - 16, h⟩)
  else if h : k - 20 < 8 then some (.tag ⟨k - 20, h⟩)
  else if h : k - 28 < 8 then some (.tagin ⟨k - 28, h⟩)
  else none

/-- The offset of a register (R32). -/
def Reg.offset : Reg → BitVec 8
  | .id => 0x00#8
  | .cmd => 0x04#8
  | .status => 0x08#8
  | .intEn => 0x0C#8
  | .intStat => 0x10#8
  | .lenLo => 0x14#8
  | .lenHi => 0x18#8
  | .keylen => 0x1C#8
  | .blkremLo => 0x20#8
  | .blkremHi => 0x24#8
  | .din j => BitVec.ofNat 8 (0x30 + 4 * j.val)
  | .dout j => BitVec.ofNat 8 (0x40 + 4 * j.val)
  | .tag j => BitVec.ofNat 8 (0x50 + 4 * j.val)
  | .tagin j => BitVec.ofNat 8 (0x70 + 4 * j.val)

/-- The access decode of R92: the register, or the error response. -/
def permitted (off : BitVec 8) (width : Width) : Except Fault Reg :=
  if width = .w32 then
    match regAt off with
    | some r => .ok r
    | none => .error .busError
  else .error .busError

/-- The value a read of a register returns; write-only registers read 0 (R31 to R54). -/
def readReg (s : State) : Reg → Word
  | .id => Config.idValue
  | .cmd => 0#32
  | .status => s.statusWord
  | .intEn => s.intEnWord
  | .intStat => s.intStatWord
  | .lenLo => s.len.extractLsb' 0 32
  | .lenHi => s.len.extractLsb' 32 32
  | .keylen => s.keylen
  | .blkremLo => s.blkrem.extractLsb' 0 32
  | .blkremHi => s.blkrem.extractLsb' 32 32
  | .din _ => 0#32
  | .dout j => readLanes s.dout j.val
  | .tag j => readLanes s.tag j.val
  | .tagin _ => 0#32

/-- The state after a write to a register other than CMD: read-only registers ignore it (R31); a
write to CMD does nothing here, since its effect is the command's (R34, R150). -/
def writeReg (s : State) (r : Reg) (w : Word) : State :=
  match r with
  | .id => s
  | .cmd => s
  | .status => s
  | .intEn => s.writeIntEn w
  | .intStat => s.writeIntStat w
  | .lenLo => { s with len := s.len.extractLsb' 32 32 ++ w }
  | .lenHi => { s with len := w ++ s.len.extractLsb' 0 32 }
  | .keylen => s
  | .blkremLo => s
  | .blkremHi => s
  | .din j => { s with din := writeLanes s.din j.val w }
  | .dout _ => s
  | .tag _ => s
  | .tagin j => { s with tagin := writeLanes s.tagin j.val w }

/-- The reply to a host read (R92, R94). -/
def readReply (s : State) (off : BitVec 8) (width : Width) : Reply :=
  match permitted off width with
  | .ok r => .data (readReg s r)
  | .error f => .error f

/-- The width of an access of n bytes, for the bus primitives of R25. R92 lists 8, 16 and 64 bits
beside the permitted 32; an access of any other n is taken to reach the window too and to get BusError
(DEDUCED, log entry 25). -/
def widthOfBytes (n : Nat) : Width :=
  if n = 1 then .w8
  else if n = 2 then .w16
  else if n = 4 then .w32
  else if n = 8 then .w64
  else .other n

/-- The offset in the window of a bus address, none outside BASE to BASE + 0xFF (R19, R95). -/
def offsetIn (base addr : Nat) : Option (BitVec 8) :=
  if base ≤ addr ∧ addr < base + Config.windowLen then some (BitVec.ofNat 8 (addr - base)) else none

/-- MemRead(addr, n): what reaches this AEO of a host read at a bus address, none if the address is
outside its window (R25, R95; log entry 8). -/
def memRead (addr n : Nat) : Option Input :=
  (offsetIn Config.base addr).map fun off => .read off (widthOfBytes n)

/-- MemWrite(addr, n, v) (R25, R95). -/
def memWrite (addr n : Nat) (v : BitVec 64) : Option Input :=
  (offsetIn Config.base addr).map fun off => .write off (widthOfBytes n) v

end Sys2Proof.Machine
end

