-- ==== Sys2Proof/Machine/Sequencer.lean ====
section
/-! DEFINITION. What each action of the outside world does to the AEO: host accesses, the sequencer's
completion step and reset (10_state.md R30; 20_memory.md R97; 40_command_model.md R150, R151). -/

namespace Sys2Proof.Machine

open Sys2Proof

/-- accept(w): the host writes w to CMD (R150). While BUSY the word is not decoded. -/
def present (w : Word) (s : State) : Out :=
  if s.busy then .next (whileBusy (w == 0x00000001#32) s)
  else match decode w with
    | .ok i => exec i s
    | .error _ => .next (raiseError .illegalCmd s)

/-- s with the reply to the host's access (log entry 4). -/
def answer (r : Reply) (s : State) : State := { s with reply := r }

/-- One host write (R92, R94): of CMD the command's effect, of any other register the register's. -/
def hostWrite (off : BitVec 8) (width : Width) (data : BitVec 64) (s : State) : Out :=
  match permitted off width with
  | .ok .cmd => present (data.setWidth 32) (answer .ack s)
  | .ok r => .next (answer .ack (writeReg s r (data.setWidth 32)))
  | .error f => .next (answer (.error f) s)

/-- The sequencer's completion step, enabled only when BUSY = 1 (R151); it runs the command of PEND.
With nothing pending there is no step, and an answer that arrives late is ignored (R318, R340). -/
def sequencerStep (pf : Bool) (s : State) : Out :=
  match s.busy, s.pend with
  | true, some p => exec p.cmd { s with completing := some pf }
  | _, _ => .next s

/-- The platform's reset: every element to its reset value (R340, R341); what the outside world does
afterwards is no element of the AEO and stays (log entry 10). -/
def resetAll (s : State) : State := { State.reset with inputs := s.inputs }

/-- What one action of the outside world does. -/
def applyInput (a : Input) (s : State) : Out :=
  match a with
  | .read off width => .next (answer (readReply s off width) s)
  | .write off width data => hostWrite off width data s
  | .complete pf => sequencerStep pf s
  | .reset => .next (resetAll s)

/-- The next action taken from the list and applied; with none, the AEO performs no step and its
state survives idleness unchanged (R318). -/
def runInput (s : State) : Out :=
  match s.inputs with
  | [] => .next s
  | a :: rest => applyInput a { s with inputs := rest, completing := none }

/-- A host write of the command word w to CMD. -/
def cmdWrite (w : Word) : Input := .write Reg.cmd.offset .w32 (w.setWidth 64)

/-- s with `a` as the next action of the outside world. -/
def pushInput (s : State) (a : Input) : State := { s with inputs := a :: s.inputs }

/-- s with a CMD write of the word w as the next action of the outside world. -/
def pushCommand (s : State) (w : Word) : State := pushInput s (cmdWrite w)

end Sys2Proof.Machine
end

