-- ==== Sys2Proof/Machine/Step.lean ====
section
/-! DEFINITION. One step of the machine: the next action of the outside world upon the AEO. -/

namespace Sys2Proof.Machine

open Sys2Proof

/-- One step (20_memory.md R97: each host access and each completion is one atomic step). -/
def step (s : State) : Host.Outcome State Fault Refusal := runInput s

/-- s with the command word of `nbits` bits `w` (the bits above them 0) as the host's next CMD write:
the AEO fetches nothing (R66, R100), and a command runs when it is written to CMD (log entry 9). -/
def State.withFetchWord (s : State) (nbits w : Nat) : State :=
  pushCommand s (BitVec.ofNat 32 (w % 2 ^ nbits))

end Sys2Proof.Machine
end

