-- ==== Sys2Proof/Machine/Software.lean ====
section
/-! DEFINITION. The host's software: the host operations and pseudo-instructions of 30_encoding.md
R118 and R119, the bus accesses they expand to, what they take from the words they read, and the run
of a host program against the AEO. The AEO's step is `step`; a host program only chooses the host's
next access from the replies to the earlier ones, and no definition of the machine uses it. -/

namespace Sys2Proof.Machine

open Sys2Proof

/-! ## Accesses -/

/-- WR REG, imm32 (R118). -/
def hostWr (r : Reg) (v : Word) : Input := .write r.offset .w32 (v.setWidth 64)

/-- RD REG (R118). -/
def hostRd (r : Reg) : Input := .read r.offset .w32

/-- CMD MNEMONIC [n] (R119). -/
def hostCmd (i : Instr) : List Input := [cmdWrite (encode i)]

/-- DIN b0 .. bm: four writes, 0x00 beyond the bytes given (R119). -/
def hostDin (b : Bytes) : List Input :=
  (List.finRange 4).map fun j => hostWr (.din j) (readLanes (blockOf b) j.val)

/-- TAGIN t0 .. t31: eight writes (R119). -/
def hostTagin (b : Bytes) : List Input :=
  (List.finRange 8).map fun j => hostWr (.tagin j) (readLanes (tagOf b) j.val)

/-- LEN v (R119). -/
def hostLen (v : Size) : List Input :=
  [hostWr .lenLo (v.extractLsb' 0 32), hostWr .lenHi (v.extractLsb' 32 32)]

/-- One round of WAIT's loop: RD STATUS (R119). `HostProgram.advance` repeats it while BUSY reads 1. -/
def hostWait : List Input := [hostRd .status]

/-- The reads of GETDOUT (R119). `takeDout` is the bytes it takes from them. -/
def hostGetDout : List Input := (List.finRange 4).map fun j => hostRd (.dout j)

/-- GETTAG (R119). -/
def hostGetTag : List Input := (List.finRange 8).map fun j => hostRd (.tag j)

/-! ## Operations -/

/-- A host operation (R118) or a pseudo-instruction (R119). -/
inductive HostOp where
  | wr (r : Reg) (v : Word)
  | rd (r : Reg)
  | cmd (i : Instr)
  /-- At most 16 bytes (R119). -/
  | din (b : Bytes)
  /-- 32 bytes (R119). -/
  | tagin (b : Bytes)
  | len (v : Size)
  | wait
  | getDout
  | getTag
deriving DecidableEq, Repr

/-- The bus accesses an operation expands to, in order; for WAIT, those of one round of its loop
(R118, R119). -/
def HostOp.accesses : HostOp → List Input
  | .wr r v => [hostWr r v]
  | .rd r => [hostRd r]
  | .cmd i => hostCmd i
  | .din b => hostDin b
  | .tagin b => hostTagin b
  | .len v => hostLen v
  | .wait => hostWait
  | .getDout => hostGetDout
  | .getTag => hostGetTag

/-- BUSY, bit 4 of a word read from STATUS (R35, R119). -/
def busyRead (status : Word) : Bool := status.getLsbD 4

/-- DOUT_CNT, bits 16:12 of a word read from STATUS (R35, R42). -/
def doutCntRead (status : Word) : Nat := (status.extractLsb' 12 5).toNat

/-- The bytes of the words read, lane 0 first (R90). -/
def bytesRead (words : List Word) : Bytes := words.flatMap bytesOfWord

/-- The bytes GETDOUT takes: the first DOUT_CNT of those read (R119). -/
def takeDout (status : Word) (words : List Word) : Bytes :=
  (bytesRead words).take (doutCntRead status)

/-- What an operation leaves the host's software with. -/
inductive HostResult where
  /-- The words it read: none for an operation that writes. -/
  | words (w : List Word)
  /-- The bytes of GETDOUT and GETTAG. -/
  | bytes (b : Bytes)
deriving DecidableEq, Repr

/-- The result of an operation that has read the given words, `status` being the last word the host
read from STATUS (R118, R119). -/
def HostOp.result (status : Word) (words : List Word) : HostOp → HostResult
  | .getDout => .bytes (takeDout status words)
  | .getTag => .bytes (bytesRead words)
  | .wr _ _ | .rd _ | .cmd _ | .din _ | .tagin _ | .len _ | .wait => .words words

/-! ## Programs -/

/-- A host program as it runs. None of this is state of the AEO. -/
structure HostProgram where
  /-- The operation under way, and those after it. -/
  ops : List HostOp
  /-- How many accesses of the operation under way have been made. -/
  made : Nat
  /-- The words the operation under way has read. -/
  words : List Word
  /-- The word last read from STATUS, the source of DOUT_CNT for GETDOUT (log entry 23). -/
  status : Word
  /-- The results of the operations that have ended, in order. -/
  results : List HostResult
deriving DecidableEq, Repr

/-- A program before its first access. -/
def HostProgram.start (ops : List HostOp) : HostProgram :=
  { ops := ops, made := 0, words := [], status := 0#32, results := [] }

/-- The next access of a program, none at its end. -/
def HostProgram.next (h : HostProgram) : Option Input :=
  match h.ops with
  | [] => none
  | op :: _ => op.accesses[h.made]?

/-- The program after the reply r to its access a. -/
def HostProgram.note (a : Input) (r : Reply) (h : HostProgram) : HostProgram :=
  match r with
  | .data v =>
    { h with
      made := h.made + 1, words := h.words ++ [v]
      status := if a = hostRd .status then v else h.status }
  | .none | .ack | .error _ => { h with made := h.made + 1 }

/-- Where the program goes after an access: on in its operation; back to RD STATUS in a WAIT whose
read had BUSY = 1; otherwise, with the operation's result, to the next operation (R119). -/
def HostProgram.advance (h : HostProgram) : HostProgram :=
  match h.ops with
  | [] => h
  | op :: rest =>
    if h.made < op.accesses.length then h
    else if op = .wait ∧ busyRead h.status then { h with made := 0, words := [] }
    else
      { h with
        ops := rest, made := 0, words := []
        results := h.results ++ [op.result h.status h.words] }

/-! ## Runs -/

/-- A host program and the AEO it drives. -/
abbrev Driven := HostProgram × State

/-- The outcome of a turn. -/
abbrev DrivenOut := Host.Outcome Driven Fault Refusal

/-- Who acts next: the host's program, or something else outside the AEO (R30, R97). -/
inductive Turn where
  | host
  | world (a : Input)
deriving DecidableEq, Repr

/-- One step of the AEO on the action `a`, and the program that follows from the state it leaves. -/
def actThen (a : Input) (s : State) (k : State → HostProgram) : DrivenOut :=
  match step (pushInput s a) with
  | .next t => .next (k t, t)
  | .fault f => .fault f
  | .refused r => .refused r

/-- One turn. A program that has ended makes no access. -/
def turn (x : Turn) (h : HostProgram) (s : State) : DrivenOut :=
  match x with
  | .world a => actThen a s fun _ => h
  | .host =>
    match h.next with
    | none => .next (h, s)
    | some a => actThen a s fun t => (h.note a t.reply).advance

/-- The turns of an interleaving, one after the other (R97). A WAIT goes on for as many of the host's
turns as find BUSY = 1, so it never ends in an interleaving where the busy command does not complete
(R119, R355). -/
def runTurns : List Turn → HostProgram → State → DrivenOut
  | [], h, s => .next (h, s)
  | x :: rest, h, s =>
    match turn x h s with
    | .next (g, t) => runTurns rest g t
    | .fault f => .fault f
    | .refused r => .refused r

end Sys2Proof.Machine
end

