-- ==== Sys2Proof/Safety.lean ====
section
/-! DEFINITION. What the statements speak of: the invariants of the machine (10_state.md R69 to R71),
`perform` as R154 gives it, over any collaborators, and whole operations as their sequences of
commands (45_encrypt_path.md R240; 46_decrypt_path.md R270). -/

namespace Sys2Proof.Safety

open Sys2Proof Sys2Proof.Machine

/-! ## Invariants -/

/-- The bookkeeping of the two command phases: PEND ≠ none exactly when BUSY = 1 (R63); ABRT and OVR
are set only while BUSY (R150, R151); a pending command is busy-class, has a count of at most 16 and
is legal in STATE, as it was at acceptance (R155); its snapshot's secret is SECRET, which no command
changes while it is pending (R217). -/
def Control (s : State) : Prop :=
  s.completing = none ∧
  s.busy = s.pend.isSome ∧
  (s.busy = false → s.abrt = false ∧ s.ovr = false) ∧
  ∀ p, s.pend = some p →
    p.cmd.class = .busy ∧ p.cmd.WellFormed ∧ legal p.cmd s.state = true ∧
      p.snap.secret = s.secret ∧ p.snap.keylen = s.keylen

/-- KEYLEN is the length of SECRET, at most SECRET_MAX (R49, R55). -/
def SecretBounded (s : State) : Prop :=
  s.keylen.toNat = s.secret.length ∧ s.secret.length ≤ Config.params.secretMax

/-- IV, WK, CHAIN, BUF, HMSG, MMSG and LASTCNT zeroized (R71, R157). -/
def Zeroized (s : State) : Prop :=
  s.iv = zeroBlock ∧ s.wk = zeroKey ∧ s.chain = zeroBlock ∧ s.buf = zeroBlock ∧
    s.hmsg = [] ∧ s.mmsg = [] ∧ s.lastCnt = 0#5

/-- Working secrets do not outlive their operation (R71), and BLKREM is 0 outside one (R50). -/
def Cleared (s : State) : Prop :=
  s.state = .idle ∨ s.state = .done ∨ s.state = .error → Zeroized s ∧ s.blkrem = 0#64

/-- ERR names an error exactly in the ERROR state (R41, R309); AUTH_OK = 1 exactly in DONE of a
decrypt operation (R39, R297); DIR is the direction of the operation (R38); TAG is non-zero only in
DONE of an encrypt operation (R53, R263). -/
def Verdict (s : State) : Prop :=
  (s.state = .error ↔ s.err ≠ .none) ∧
  (s.authOk = true ↔ s.state = .done ∧ s.dir = true) ∧
  (s.state = .eName ∨ s.state = .eStream → s.dir = false) ∧
  (s.state = .dIv ∨ s.state = .dStream ∨ s.state = .dTag → s.dir = true) ∧
  (s.tag ≠ zeroTag → s.state = .done ∧ s.dir = false)

/-- DOUT_CNT is at most 16 and the bytes of DOUT from DOUT_CNT on are 0 (R42, R52). -/
def OutputTrimmed (s : State) : Prop :=
  s.doutCnt.toNat ≤ Config.blockLen ∧
    ∀ i : Fin Config.blockLen, s.doutCnt.toNat ≤ i.val → s.dout[i] = 0#8

/-- The counters of an operation: BLKREM's range in each state (R66, R70), LASTCNT's (R62), REM as
the low nibble of L, held in HMSG's first byte, and then of IV (R70), and LASTCNT's agreement with
REM (R298 step 3). -/
def Counted (s : State) : Prop :=
  (s.state = .eName → 1 ≤ s.blkrem.toNat ∧ Config.sizeLen ≤ s.hmsg.length ∧
    lowNibble (byteAt s.hmsg 0) = s.rem) ∧
  (s.state = .eStream → 1 ≤ s.blkrem.toNat ∧ lowNibble (lastByte s.iv) = s.rem) ∧
  (s.state = .dStream → 1 ≤ s.blkrem.toNat ∧ lowNibble (lastByte s.iv) = s.rem) ∧
  (s.state = .dTag → s.blkrem = 0#64) ∧
  (s.state = .eName ∨ s.state = .eStream → s.lastCnt.toNat % Config.blockLen = s.rem.toNat) ∧
  s.lastCnt.toNat ≤ Config.blockLen ∧
  s.blkrem.toNat ≤ Config.maxBlocks

/-- While blocks are streamed: WK is the stretched SECRET (R57, R211); CHAIN is the last 16 bytes of
IV ‖ MMSG, the ciphertext of the previous block or IV for the first (R69). -/
def Chained (s : State) : Prop :=
  s.state = .eStream ∨ s.state = .dStream ∨ s.state = .dTag →
    s.wk = stretchKey Config.params s.secret s.iv ∧
      (s.iv.toList ++ s.mmsg).drop s.mmsg.length = s.chain.toList

/-- The machine's invariant. -/
def Inv (s : State) : Prop :=
  Control s ∧ SecretBounded s ∧ Cleared s ∧ Verdict s ∧ OutputTrimmed s ∧ Counted s ∧ Chained s

/-! ## What a host can and cannot see -/

/-- The two states agree on everything the register window shows: STATUS's fields, the interrupt
registers, LEN, KEYLEN, BLKREM, DOUT and TAG (R32). -/
def SameVisible (s t : State) : Prop :=
  s.state = t.state ∧ s.busy = t.busy ∧ s.dir = t.dir ∧ s.authOk = t.authOk ∧ s.err = t.err ∧
  s.doutCnt = t.doutCnt ∧ s.rem = t.rem ∧ s.ovr = t.ovr ∧ s.cmplIe = t.cmplIe ∧
  s.failIe = t.failIe ∧ s.cmpl = t.cmpl ∧ s.fail = t.fail ∧ s.len = t.len ∧
  s.keylen = t.keylen ∧ s.blkrem = t.blkrem ∧ s.dout = t.dout ∧ s.tag = t.tag

/-! ## What happens to the AEO next -/

/-- The next action is a host write of the word w to CMD, and it finds BUSY = 0 (R150). -/
def Presents (s : State) (w : Word) : Prop :=
  s.busy = false ∧
    ∃ rest data, s.inputs = .write 0x04#8 .w32 data :: rest ∧ data.setWidth 32 = w

/-- The next action is the completion step of the pending command i on p, with the draw pf (R151). -/
def Completes (s : State) (i : Instr) (p : Snap) (pf : Bool) : Prop :=
  s.busy = true ∧ s.pend = some ⟨i, p⟩ ∧ ∃ rest, s.inputs = .complete pf :: rest

/-- The same, with no ABORT and no overrun pending and no failed call (R151). -/
def Undisturbed (s : State) (i : Instr) (p : Snap) : Prop :=
  Completes s i p false ∧ s.abrt = false ∧ s.ovr = false

/-- The event and condition that raises each error code (R300, R307). -/
def Raises (s : State) : ErrCode → Prop
  | .none => False
  | .format =>
    Presents s (encode .decStart) ∧ legal .decStart s.state = true ∧
      wellFormedLen s.len.toNat = false
  | .auth => ∃ p, Undisturbed s .tagCheck p ∧ Config.params.mac s.wk s.mmsg ≠ p.tagin
  | .illegalCmd => ∃ w, Presents s w ∧ ∀ i, decode w ≠ .ok i
  | .badState => ∃ w i, Presents s w ∧ decode w = .ok i ∧ legal i s.state = false
  | .overrun => (∃ i p pf, Completes s i p pf) ∧ s.abrt = false ∧ s.ovr = true
  | .keyOvf =>
    ∃ n, Presents s (encode (.keyAppend n)) ∧ legal (.keyAppend n) s.state = true ∧
      Config.params.secretMax < s.keylen.toNat + n.toNat
  | .primFail =>
    (∃ i p, Completes s i p true ∧ i ≠ .nameAppend 0#5) ∧ s.abrt = false ∧ s.ovr = false

/-! ## Streams of blocks -/

/-- The ciphertext blocks of a list of plaintext blocks, each block chained on the one before
(R231, R235). -/
def encryptStream (P : Config.Params) (k : Key) : Block → List Block → List Block
  | _, [] => []
  | chain, p :: rest =>
    let r := encryptBlock P k p chain
    r.1 :: encryptStream P k r.2 rest

/-- The plaintext blocks of a list of ciphertext blocks (R232, R235). -/
def decryptStream (P : Config.Params) (k : Key) : Block → List Block → List Block
  | _, [] => []
  | chain, c :: rest =>
    let r := decryptBlock P k c chain
    r.1 :: decryptStream P k r.2 rest

/-! ## Operations as sequences of commands -/

/-- perform(op, cnt, snap) (R154), over any collaborators. -/
def perform (P : Config.Params) (i : Instr) (p : Snap) (s : State) : Performed :=
  match i with
  | .abort => performAbort p s
  | .keyClear => performKeyClear p s
  | .keyAppend n => performKeyAppend P.secretMax n p s
  | .encStart => performEncStart p s
  | .nameAppend n => performNameAppend n p s
  | .ivGen => performIvGen P p s
  | .encBlock => performEncBlock P p s
  | .decStart => performDecStart p s
  | .ivLoad => performIvLoad P p s
  | .decBlock => performDecBlock P p s
  | .tagCheck => performTagCheck P p s

/-- A command that is legal in the state, performed on the operands it finds there. It does not check
the count: on one above 16, an illegal word on the machine (R114), it takes all 16 bytes (log entry
12). -/
def runCommand (P : Config.Params) (i : Instr) (s : State) : Performed :=
  if legal i s.state then perform P i (snapshot s) s else .error .badState

/-- NAME_APPENDs, each with its count and its DIN (R240). -/
def runNames (P : Config.Params) : List (BitVec 5 × Block) → State → Performed
  | [], s => .ok s
  | (n, b) :: rest, s =>
    match runCommand P (.nameAppend n) { s with din := b } with
    | .ok t => runNames P rest t
    | .error e => .error e

/-- The bytes a list of NAME_APPENDs feeds to the hash, all 16 for a count above 16 (log entry 12). -/
def namesBytes (l : List (BitVec 5 × Block)) : Bytes :=
  l.flatMap fun x => firstBytes x.1.toNat x.2

/-- ENC_BLOCKs on the given DINs, and the DOUT of each (R240). -/
def runEncBlocks (P : Config.Params) : List Block → State → Except ErrCode (List Block × State)
  | [], s => .ok ([], s)
  | b :: rest, s =>
    match runCommand P .encBlock { s with din := b } with
    | .error e => .error e
    | .ok t =>
      match runEncBlocks P rest t with
      | .error e => .error e
      | .ok (cs, u) => .ok (t.dout :: cs, u)

/-- DEC_BLOCKs on the given DINs, and the first DOUT_CNT bytes of each DOUT, joined (R270, R286). -/
def runDecBlocks (P : Config.Params) : List Block → State → Except ErrCode (Bytes × State)
  | [], s => .ok ([], s)
  | c :: rest, s =>
    match runCommand P .decBlock { s with din := c } with
    | .error e => .error e
    | .ok t =>
      match runDecBlocks P rest t with
      | .error e => .error e
      | .ok (out, u) => .ok (firstBytes t.doutCnt.toNat t.dout ++ out, u)

/-- The N blocks of a plaintext as the host puts them into DIN (R240, R119). -/
def plainBlocks (plain : Bytes) : List Block :=
  (List.range (blockCount plain.length)).map fun i => blockOf (plain.drop (Config.blockLen * i))

/-- The encrypt operation of R240 from the state s: the container and the last state. -/
def encryptFile (P : Config.Params) (names : List (BitVec 5 × Block)) (plain : Bytes) (s : State) :
    Except ErrCode (Bytes × State) :=
  match runCommand P .encStart { s with len := BitVec.ofNat Config.sizeBits plain.length } with
  | .error e => .error e
  | .ok s1 =>
    match runNames P names s1 with
    | .error e => .error e
    | .ok s2 =>
      match runCommand P .ivGen s2 with
      | .error e => .error e
      | .ok s3 =>
        match runEncBlocks P (plainBlocks plain) s3 with
        | .error e => .error e
        | .ok (cs, s4) => .ok (container s3.dout cs s4.tag, s4)

/-- The decrypt operation of R270 from the state s: the bytes emitted and the last state. -/
def decryptFile (P : Config.Params) (c : Bytes) (s : State) : Except ErrCode (Bytes × State) :=
  match runCommand P .decStart { s with len := BitVec.ofNat Config.sizeBits c.length } with
  | .error e => .error e
  | .ok s1 =>
    match runCommand P .ivLoad { s1 with din := blockOf (containerIv c) } with
    | .error e => .error e
    | .ok s2 =>
      match runDecBlocks P
          ((List.range (containerBlocks c.length)).map fun i => blockOf (containerBlock c i)) s2 with
      | .error e => .error e
      | .ok (out, s3) =>
        match runCommand P .tagCheck { s3 with tagin := tagOf (containerTag c) } with
        | .error e => .error e
        | .ok s4 => .ok (out, s4)

/-- The naturals that 16-byte strings are when read most significant byte first (R230). -/
def bigEndian (b : Block) : Nat := b.toList.foldl (fun acc x => acc * 256 + x.toNat) 0

end Sys2Proof.Safety
end

