-- ==== Sys2Proof/Certificates/Slice0/Obligations.lean ====
section
/-! DEFINITION. The statements about the model, for the provers. Each docstring says which rule of
spec/ the statement is about. A statement about a command in its completion step speaks of a state
whose `completing` holds the draw of R186, as `step` sets it (log entries 2 and 3). -/

section Statements

open Sys2Proof Sys2Proof.Machine Sys2Proof.Safety

/-! ## Encoding -/

/-- Decoding the word of a well-formed command gives the command back, every count included (R110,
R111, R115, R117). The second clause, that decoding the word's four bytes does too, is the model's
choice of what its byte decoder takes and in which lanes (DESIGN CHOICE, log entry 22). -/
def Obligations.DecodeInvertsEncode : Prop :=
  ∀ i : Instr, i.WellFormed →
    decode (encode i) = .ok i ∧ decodeBytes (bytesOfWord (encode i)) = .ok i

/-- A word has at most one meaning and no bit of it is ignored: what decodes to i is the word of i
(R113, R115). -/
def Obligations.LegalWordIsItsEncoding : Prop :=
  ∀ (w : Word) (i : Instr), decode w = .ok i → i.WellFormed ∧ encode i = w

/-- Exactly the words of R114's four items are illegal: w[31:13] ≠ 0, an opcode outside the map, a
count on a command that takes none, or a count above 16. -/
def Obligations.IllegalWordsExactly : Prop :=
  ∀ w : Word,
    (∃ i, decode w = .ok i) ↔
      w.toNat / 2 ^ 13 = 0 ∧
      ((w.toNat % 256 ∈ [0x03, 0x11] ∧ w.toNat / 256 % 32 ≤ 16) ∨
       (w.toNat % 256 ∈ [0x01, 0x02, 0x10, 0x12, 0x13, 0x20, 0x21, 0x22, 0x23] ∧
        w.toNat / 256 % 32 = 0))

/-- The sixteen example words of R116, row by row. -/
def Obligations.ExampleWordsDecode : Prop :=
  decode 0x00000001#32 = .ok .abort ∧
  decode 0x00000002#32 = .ok .keyClear ∧
  decode 0x00000603#32 = .ok (.keyAppend 6#5) ∧
  decode 0x00001003#32 = .ok (.keyAppend 16#5) ∧
  decode 0x00001103#32 = .error .countTooLarge ∧
  decode 0x00000010#32 = .ok .encStart ∧
  decode 0x00000511#32 = .ok (.nameAppend 5#5) ∧
  decode 0x00000012#32 = .ok .ivGen ∧
  decode 0x00000013#32 = .ok .encBlock ∧
  decode 0x00000113#32 = .error .countNotAllowed ∧
  decode 0x00000020#32 = .ok .decStart ∧
  decode 0x00000021#32 = .ok .ivLoad ∧
  decode 0x00000022#32 = .ok .decBlock ∧
  decode 0x00000023#32 = .ok .tagCheck ∧
  decode 0x00000000#32 = .error .unknownOpcode ∧
  decode 0x00002010#32 = .error .reservedBits

/-! ## Steps -/

/-- A step runs the decoded command: with BUSY = 0 and a write of a legal word first among the host's
accesses, the step is that command's `exec` on the state with the access taken from the list, outside
any completion step, and acknowledged (R34, R150). -/
def Obligations.StepRunsDecodedCommand : Prop :=
  ∀ (s : State) (w : Word) (rest : List Input) (i : Instr),
    s.inputs = .write 0x04#8 .w32 (w.setWidth 64) :: rest → s.busy = false → decode w = .ok i →
      step s = exec i { s with inputs := rest, completing := none, reply := .ack }

/-- A step on an illegal word with BUSY = 0, in any state, is error entry with ILLEGAL_CMD
(R114, R150, R159). -/
def Obligations.IllegalWordRaisesIllegalCmd : Prop :=
  ∀ (s : State) (w : Word) (rest : List Input),
    s.inputs = .write 0x04#8 .w32 (w.setWidth 64) :: rest → s.busy = false →
    (∀ i, decode w ≠ .ok i) →
      step s = .next
        (raiseError .illegalCmd { s with inputs := rest, completing := none, reply := .ack })

/-- A CMD write while BUSY = 1 is not decoded: ABORT's word sets ABRT and every other word, legal or
not, sets OVR; nothing else of the AEO changes (R150, R158, R160). -/
def Obligations.CommandWriteWhileBusy : Prop :=
  ∀ (s : State) (w : Word) (rest : List Input),
    s.inputs = .write 0x04#8 .w32 (w.setWidth 64) :: rest → s.busy = true →
      step s = .next
        (if w = 0x00000001#32 then
          { s with inputs := rest, completing := none, reply := .ack, abrt := true }
        else { s with inputs := rest, completing := none, reply := .ack, ovr := true })

/-- The sequencer's completion step runs the pending command when BUSY = 1 (R151), and is no step of
the AEO when BUSY = 0 (R151, R318). The third clause, that with an empty list of the outside world's
actions the state stays as it is, also when BUSY = 1, is the model's choice (DESIGN CHOICE, log
entries 1 and 3). -/
def Obligations.CompletionStepRunsPending : Prop :=
  (∀ (s : State) (pf : Bool) (rest : List Input) (p : Pending),
    s.inputs = .complete pf :: rest → s.busy = true → s.pend = some p →
      step s = exec p.cmd { s with inputs := rest, completing := some pf }) ∧
  (∀ (s : State) (pf : Bool) (rest : List Input),
    s.inputs = .complete pf :: rest → s.busy = false →
      step s = .next { s with inputs := rest, completing := none }) ∧
  (∀ s : State, s.inputs = [] → step s = .next s)

/-- No state and no action of the outside world stops the machine: every step, and every command in
every state, answers a next state (the opening of 70_reset_and_hazards.md section 3: breaking an
ordering rule never leaves the AEO in an undefined state). That an access which is not permitted
answers a next state too, with BusError as the reply, is the model's choice (DESIGN CHOICE, log
entry 4; R92). -/
def Obligations.NothingStopsTheMachine : Prop :=
  (∀ s : State, ∃ t, step s = .next t) ∧ ∀ (i : Instr) (s : State), ∃ t, exec i s = .next t

/-- Reset, in every state, BUSY or not, gives every element its reset value; a pending command is
discarded and CMPL is not set for it (R340, R343). What the outside world does next is the model's
own list and stays (log entry 10). -/
def Obligations.ResetInAnyState : Prop :=
  ∀ (s : State) (rest : List Input), s.inputs = .reset :: rest →
    step s = .next { State.reset with inputs := rest }

/-- The values after reset, as the registers of the window show them and element by element (R341).
The model's own fields are not in R341 and are not spoken of here. -/
def Obligations.ResetValues : Prop :=
  readReg State.reset .id = 0x41454F01#32 ∧ readReg State.reset .cmd = 0#32 ∧
  readReg State.reset .status = 0#32 ∧
  State.reset.state = .idle ∧ State.reset.busy = false ∧ State.reset.dir = false ∧
  State.reset.authOk = false ∧ State.reset.last = false ∧ State.reset.err = .none ∧
  State.reset.doutCnt = 0#5 ∧ State.reset.rem = 0#4 ∧ State.reset.ovr = false ∧
  State.reset.cmplIe = false ∧ State.reset.failIe = false ∧
  State.reset.cmpl = false ∧ State.reset.fail = false ∧
  State.reset.len = 0#64 ∧ State.reset.keylen = 0#32 ∧ State.reset.blkrem = 0#64 ∧
  State.reset.din = zeroBlock ∧ State.reset.dout = zeroBlock ∧
  State.reset.tag = zeroTag ∧ State.reset.tagin = zeroTag ∧ State.reset.secret = [] ∧
  State.reset.iv = zeroBlock ∧ State.reset.wk = zeroKey ∧ State.reset.chain = zeroBlock ∧
  State.reset.buf = zeroBlock ∧ State.reset.hmsg = [] ∧ State.reset.mmsg = [] ∧
  State.reset.lastCnt = 0#5 ∧ State.reset.pend = none ∧ State.reset.abrt = false ∧
  State.reset.irq = false

/-! ## The register window -/

/-- An access gets the error response exactly when it is not a 32-bit access at a 4-byte-aligned
offset that the register map lists, and then no state of the AEO changes (R92; the reply and the next
state are log entry 4). A permitted read answers the register's value, as `readReply` gives it, and
changes nothing but the reply (R94). -/
def Obligations.BusErrorExactly : Prop :=
  ∀ (s : State) (off : BitVec 8) (width : Width) (data : BitVec 64) (rest : List Input),
    if width = .w32 ∧ off.toNat % 4 = 0 ∧ off ≠ 0x28#8 ∧ off ≠ 0x2C#8 ∧ off.toNat < 0x90 then
      (s.inputs = .read off width :: rest →
        step s = .next { s with
          inputs := rest, completing := none, reply := readReply s off width } ∧
        ∃ v, readReply s off width = .data v) ∧
      (s.inputs = .write off width data :: rest → ∃ t, step s = .next t ∧ t.reply = .ack)
    else
      readReply s off width = .error .busError ∧
      ((s.inputs = .read off width :: rest ∨ s.inputs = .write off width data :: rest) →
        step s = .next
          { s with inputs := rest, completing := none, reply := .error .busError })

/-- ID reads its constant in every state, and the write-only registers CMD, DIN and TAGIN read 0
(R33, R34, R51, R54). -/
def Obligations.ConstantReads : Prop :=
  ∀ s : State,
    readReply s 0x00#8 .w32 = .data 0x41454F01#32 ∧
    (∀ off : BitVec 8,
      off = 0x04#8 ∨ off ∈ [0x30#8, 0x34#8, 0x38#8, 0x3C#8] ∨
        off ∈ [0x70#8, 0x74#8, 0x78#8, 0x7C#8, 0x80#8, 0x84#8, 0x88#8, 0x8C#8] →
      readReply s off .w32 = .data 0#32)

/-- No read, of any offset and width, tells two states apart that agree on what the window shows: so
SECRET, WK, IV, CHAIN, BUF, DIN, TAGIN, HMSG, MMSG, LASTCNT, PEND and ABRT cannot be read
(R51, R55, R57, R96, R312). -/
def Obligations.SecretsCannotBeRead : Prop :=
  ∀ (s t : State) (off : BitVec 8) (width : Width), SameVisible s t →
    readReply s off width = readReply t off width

/-- A word written to DIN0 to DIN3 puts its four bytes at the positions 4j to 4j + 3 of DIN, lane 0
first, and changes nothing else, whether BUSY or not; and the same of TAGIN0 to TAGIN7
(R51, R54, R90). -/
def Obligations.BlockRegisterWrites : Prop :=
  (∀ (s : State) (j : Fin 4) (v : Word) (rest : List Input),
    s.inputs = .write (BitVec.ofNat 8 (0x30 + 4 * j.val)) .w32 (v.setWidth 64) :: rest →
      ∃ d : Block,
        (∀ k : Fin 16, d[k] =
          if k.val / 4 = j.val then v.extractLsb' (8 * (k.val % 4)) 8 else s.din[k]) ∧
        step s = .next { s with inputs := rest, completing := none, reply := .ack, din := d }) ∧
  (∀ (s : State) (j : Fin 8) (v : Word) (rest : List Input),
    s.inputs = .write (BitVec.ofNat 8 (0x70 + 4 * j.val)) .w32 (v.setWidth 64) :: rest →
      ∃ d : Tag,
        (∀ k : Fin 32, d[k] =
          if k.val / 4 = j.val then v.extractLsb' (8 * (k.val % 4)) 8 else s.tagin[k]) ∧
        step s = .next { s with inputs := rest, completing := none, reply := .ack, tagin := d })

/-- Lane m of register j of DOUT, and of TAG, reads byte 4j + m of it (R52, R53, R90). -/
def Obligations.BlockRegisterReads : Prop :=
  (∀ (s : State) (k : Fin 16), ∃ v : Word,
    readReply s (BitVec.ofNat 8 (0x40 + 4 * (k.val / 4))) .w32 = .data v ∧
      v.extractLsb' (8 * (k.val % 4)) 8 = s.dout[k]) ∧
  (∀ (s : State) (k : Fin 32), ∃ v : Word,
    readReply s (BitVec.ofNat 8 (0x50 + 4 * (k.val / 4))) .w32 = .data v ∧
      v.extractLsb' (8 * (k.val % 4)) 8 = s.tag[k])

/-- The fields of the word that STATUS reads, at the places of R35, its reserved bits being 0
(R35, R45). -/
def Obligations.StatusFields : Prop :=
  ∀ s : State, ∃ v : Word, readReply s 0x08#8 .w32 = .data v ∧
    v.extractLsb' 0 4 = s.state.code ∧ v.getLsbD 4 = s.busy ∧ v.getLsbD 5 = s.dir ∧
    v.getLsbD 6 = s.authOk ∧ v.extractLsb' 8 4 = s.err.code ∧ v.extractLsb' 12 5 = s.doutCnt ∧
    v.extractLsb' 17 3 = 0#3 ∧ v.extractLsb' 20 4 = s.rem ∧ v.getLsbD 24 = s.ovr ∧
    v.extractLsb' 25 7 = 0#7

/-- The codes that STATUS shows: STATE in bits 3:0 as R36 numbers the eight states, and ERR in bits
11:8 as R300 numbers the eight codes (R35, R36, R300). -/
def Obligations.StatusCodes : Prop :=
  ∀ s : State, ∃ v : Word, readReply s 0x08#8 .w32 = .data v ∧
    (v.extractLsb' 0 4).toNat =
      (match s.state with
        | .idle => 0
        | .eName => 1
        | .eStream => 2
        | .dIv => 3
        | .dStream => 4
        | .dTag => 5
        | .done => 6
        | .error => 7) ∧
    (v.extractLsb' 8 4).toNat =
      (match s.err with
        | .none => 0
        | .format => 1
        | .auth => 2
        | .illegalCmd => 3
        | .badState => 4
        | .overrun => 5
        | .keyOvf => 6
        | .primFail => 7)

/-- What reads of INT_EN, INT_STAT, LEN, KEYLEN and BLKREM return: the two enables and the two pending
bits in bits 0 and 1 with bits 31:2 zero, LEN[31:0] at 0x14 and LEN[63:32] at 0x18, KEYLEN, and
BLKREM[31:0] at 0x20 and BLKREM[63:32] at 0x24 (R46, R47, R48, R49, R50, R90). -/
def Obligations.RegisterReads : Prop :=
  ∀ s : State,
    (∃ v : Word, readReply s 0x0C#8 .w32 = .data v ∧ v.getLsbD 0 = s.cmplIe ∧
      v.getLsbD 1 = s.failIe ∧ v.extractLsb' 2 30 = 0#30) ∧
    (∃ v : Word, readReply s 0x10#8 .w32 = .data v ∧ v.getLsbD 0 = s.cmpl ∧
      v.getLsbD 1 = s.fail ∧ v.extractLsb' 2 30 = 0#30) ∧
    readReply s 0x14#8 .w32 = .data (s.len.extractLsb' 0 32) ∧
    readReply s 0x18#8 .w32 = .data (s.len.extractLsb' 32 32) ∧
    readReply s 0x1C#8 .w32 = .data s.keylen ∧
    readReply s 0x20#8 .w32 = .data (s.blkrem.extractLsb' 0 32) ∧
    readReply s 0x24#8 .w32 = .data (s.blkrem.extractLsb' 32 32)

/-- LAST, bit 7 of STATUS, is 1 exactly when STATE is E_STREAM or D_STREAM and BLKREM = 1 (R40). -/
def Obligations.LastFlag : Prop :=
  ∀ s : State, ∃ v : Word, readReply s 0x08#8 .w32 = .data v ∧
    (v.getLsbD 7 = true ↔ (s.state = .eStream ∨ s.state = .dStream) ∧ s.blkrem = 1#64)

/-- irq is (CMPL & CMPL_IE) | (FAIL & FAIL_IE), and is 0 after reset (R64). -/
def Obligations.IrqLevel : Prop :=
  (∀ s : State, s.irq = true ↔
    (s.cmpl = true ∧ s.cmplIe = true) ∨ (s.fail = true ∧ s.failIe = true)) ∧
  State.reset.irq = false

/-- Writing INT_EN sets the two enables from bits 0 and 1, and INT_EN then reads those two bits and
zeros (R46); writing INT_STAT clears the pending bits written 1 and no others (R47), so touches
neither STATE nor ERR (R311); writing 0x14 replaces LEN[31:0] and writing 0x18 replaces LEN[63:32],
and either half then reads what was written (R48). Each changes nothing else. -/
def Obligations.ControlRegisterWrites : Prop :=
  ∀ (s : State) (v : Word) (rest : List Input),
    (s.inputs = .write 0x0C#8 .w32 (v.setWidth 64) :: rest →
      ∃ t, step s = .next t ∧
        t = { s with
          inputs := rest, completing := none, reply := .ack,
          cmplIe := v.getLsbD 0, failIe := v.getLsbD 1 } ∧
        readReply t 0x0C#8 .w32 = .data (v &&& 0x00000003#32)) ∧
    (s.inputs = .write 0x10#8 .w32 (v.setWidth 64) :: rest →
      step s = .next { s with
        inputs := rest, completing := none, reply := .ack,
        cmpl := if v.getLsbD 0 then false else s.cmpl,
        fail := if v.getLsbD 1 then false else s.fail }) ∧
    (s.inputs = .write 0x14#8 .w32 (v.setWidth 64) :: rest →
      ∃ t, step s = .next t ∧
        t = { s with
          inputs := rest, completing := none, reply := .ack,
          len := s.len.extractLsb' 32 32 ++ v } ∧
        readReply t 0x14#8 .w32 = .data v ∧
        readReply t 0x18#8 .w32 = readReply s 0x18#8 .w32) ∧
    (s.inputs = .write 0x18#8 .w32 (v.setWidth 64) :: rest →
      ∃ t, step s = .next t ∧
        t = { s with
          inputs := rest, completing := none, reply := .ack,
          len := v ++ s.len.extractLsb' 0 32 } ∧
        readReply t 0x18#8 .w32 = .data v ∧
        readReply t 0x14#8 .w32 = readReply s 0x14#8 .w32)

/-- Writes to the read-only registers ID, STATUS, KEYLEN, BLKREM, DOUT and TAG are ignored without
error (R31, R33, R45). -/
def Obligations.ReadOnlyWritesIgnored : Prop :=
  ∀ (s : State) (off : BitVec 8) (data : BitVec 64) (rest : List Input),
    s.inputs = .write off .w32 data :: rest →
    off ∈ [0x00#8, 0x08#8, 0x1C#8, 0x20#8, 0x24#8] ∨
      (off.toNat % 4 = 0 ∧ 0x40 ≤ off.toNat ∧ off.toNat < 0x70) →
      step s = .next { s with inputs := rest, completing := none, reply := .ack }

/-! ## Acceptance, error entry and completion -/

/-- Error entry: what it writes, and that it leaves everything else (R305). -/
def Obligations.ErrorEntry : Prop :=
  ∀ (code : ErrCode) (s : State),
    raiseError code s = { s with
      iv := zeroBlock, wk := zeroKey, chain := zeroBlock, buf := zeroBlock, hmsg := [], mmsg := [],
      lastCnt := 0#5, dout := zeroBlock, doutCnt := 0#5, tag := zeroTag, blkrem := 0#64,
      rem := 0#4, authOk := false,
      err := code, state := .error, fail := true,
      pend := none, busy := false, abrt := false, ovr := false }

/-- Legal(op), row by row of R155's table. -/
def Obligations.LegalityTable : Prop :=
  ∀ q : SeqState,
    legal .abort q = true ∧
    (∀ i ∈ [Instr.keyClear, .encStart, .decStart],
      legal i q = true ↔ q = .idle ∨ q = .done ∨ q = .error) ∧
    (∀ n, legal (.keyAppend n) q = true ↔ q = .idle ∨ q = .done ∨ q = .error) ∧
    (∀ n, legal (.nameAppend n) q = true ↔ q = .eName) ∧
    (legal .ivGen q = true ↔ q = .eName) ∧
    (legal .encBlock q = true ↔ q = .eStream) ∧
    (legal .ivLoad q = true ↔ q = .dIv) ∧
    (legal .decBlock q = true ↔ q = .dStream) ∧
    (legal .tagCheck q = true ↔ q = .dTag)

/-- A command presented with BUSY = 0 in a state where it is not legal raises BAD_STATE before any
check of its own, and one with a count above 16 raises ILLEGAL_CMD before BAD_STATE (R150, R155,
R307; a term with such a count stands for the illegal word, log entry 11). -/
def Obligations.RejectedAtAcceptance : Prop :=
  ∀ (i : Instr) (s : State), s.busy = false → s.completing = none →
    (i.WellFormed → legal i s.state = false → exec i s = .next (raiseError .badState s)) ∧
    (¬ i.WellFormed → exec i s = .next (raiseError .illegalCmd s))

/-- A busy-class command accepted in a legal state writes PEND, with the snapshot of DIN, TAGIN, LEN,
SECRET and KEYLEN, and BUSY; every other element keeps its value (R150, R152, R153). -/
def Obligations.BusyCommandAccepted : Prop :=
  ∀ (i : Instr) (s : State), i.class = .busy → i.WellFormed → s.busy = false →
    s.completing = none → legal i s.state = true →
      exec i s = .next { s with
        busy := true,
        pend := some
          { cmd := i,
            snap := { din := s.din, tagin := s.tagin, len := s.len, secret := s.secret,
                      keylen := s.keylen } } }

/-- The order at completion, for every busy-class command: a pending ABORT clears the operation,
returns to IDLE and is a success; then OVR raises OVERRUN; then a failed collaborator call raises
PRIM_FAIL, except for NAME_APPEND 0, which makes no call (R151, R186, R189, R307). -/
def Obligations.CompletionPriority : Prop :=
  ∀ (i : Instr) (s : State) (p : Snap) (pf : Bool), i.class = .busy →
    s.completing = some pf → s.pend = some { cmd := i, snap := p } →
    (s.abrt = true →
      exec i s = .next { s with
        iv := zeroBlock, wk := zeroKey, chain := zeroBlock, buf := zeroBlock, hmsg := [],
        mmsg := [], lastCnt := 0#5, dout := zeroBlock, doutCnt := 0#5, tag := zeroTag,
        blkrem := 0#64, rem := 0#4, authOk := false, err := .none, state := .idle,
        cmpl := true, pend := none, busy := false, abrt := false, ovr := false,
        completing := none }) ∧
    (s.abrt = false → s.ovr = true →
      exec i s = .next { raiseError .overrun s with completing := none }) ∧
    (s.abrt = false → s.ovr = false → pf = true → i ≠ .nameAppend 0#5 →
      exec i s = .next { raiseError .primFail s with completing := none })

/-- While a busy command is pending nothing of its results shows: a step that finds BUSY = 1 and
leaves it so keeps every element, STATE, ERR, DOUT, DOUT_CNT, TAG, BLKREM, REM and PEND among them,
but for ABRT and OVR and the registers that the host itself writes (R36, R153). -/
def Obligations.BusyHoldsResults : Prop :=
  ∀ s t : State, step s = .next t → s.busy = true → t.busy = true →
    t = { s with
      abrt := t.abrt, ovr := t.ovr,
      din := t.din, tagin := t.tagin, len := t.len,
      cmplIe := t.cmplIe, failIe := t.failIe, cmpl := t.cmpl, fail := t.fail,
      completing := t.completing, inputs := t.inputs, reply := t.reply }

/-- What `runCommand`, of which the whole operations below are made, is on the machine: for a command
legal in a state that is not BUSY, the host's CMD write of its word, and for a busy-class command then
the completion step with no failed call, end in the results that `runCommand` gives, or in error entry
with the code that it gives (R150, R151, R154). -/
def Obligations.RunCommandIsTheMachine : Prop :=
  ∀ (i : Instr) (s : State) (rest : List Input), i.WellFormed → s.busy = false →
    legal i s.state = true →
    (i.class = .immediate → s.inputs = .write 0x04#8 .w32 ((encode i).setWidth 64) :: rest →
      step s = .next
        (match runCommand Config.params i s with
          | .ok u => { u with
              cmpl := true, completing := none, inputs := rest, reply := .ack }
          | .error e => { raiseError e s with
              completing := none, inputs := rest, reply := .ack })) ∧
    (i.class = .busy → s.abrt = false → s.ovr = false →
      s.inputs = .write 0x04#8 .w32 ((encode i).setWidth 64) :: .complete false :: rest →
      ∃ a, step s = .next a ∧ a.busy = true ∧
        step a = .next
          (match runCommand Config.params i s with
            | .ok u => { u with
                cmpl := true, pend := none, busy := false, abrt := false, ovr := false,
                completing := none, inputs := rest, reply := .ack }
            | .error e => { raiseError e s with
                completing := none, inputs := rest, reply := .ack }))

/-! ## The commands -/

/-- ABORT with BUSY = 0, in every state: the operation is cleared, ERR, OVR and AUTH_OK are 0, STATE
is IDLE and CMPL is set; SECRET, KEYLEN, LEN, DIN, TAGIN, INT_EN and DIR stay (R160). -/
def Obligations.AbortCompletes : Prop :=
  ∀ s : State, s.busy = false →
    exec .abort s = .next { s with
      iv := zeroBlock, wk := zeroKey, chain := zeroBlock, buf := zeroBlock, hmsg := [], mmsg := [],
      lastCnt := 0#5, dout := zeroBlock, doutCnt := 0#5, tag := zeroTag, blkrem := 0#64,
      rem := 0#4, authOk := false, err := .none, ovr := false, state := .idle, cmpl := true }

/-- KEY_CLEAR empties SECRET; STATE, ERR and everything else but CMPL stay (R214). -/
def Obligations.KeyClearCompletes : Prop :=
  ∀ s : State, s.busy = false → s.state = .idle ∨ s.state = .done ∨ s.state = .error →
    exec .keyClear s = .next { s with secret := [], keylen := 0#32, cmpl := true }

/-- KEY_APPEND n appends DIN[0..n) when SECRET has room for n bytes more, exactly full included, and
raises KEY_OVF, SECRET unchanged, when it has not (R216). -/
def Obligations.KeyAppendCompletes : Prop :=
  ∀ (n : BitVec 5) (s : State), n.toNat ≤ 16 → s.busy = false →
    s.state = .idle ∨ s.state = .done ∨ s.state = .error →
    (s.keylen.toNat + n.toNat ≤ Config.params.secretMax →
      exec (.keyAppend n) s = .next { s with
        secret := s.secret ++ s.din.toList.take n.toNat,
        keylen := s.keylen + n.setWidth 32,
        cmpl := true }) ∧
    (Config.params.secretMax < s.keylen.toNat + n.toNat →
      exec (.keyAppend n) s = .next (raiseError .keyOvf s))

/-- ENC_START in its completion step: L = LEN at acceptance gives BLKREM = max(1, ceil(L/16)), REM =
L mod 16, LASTCNT (0 for L = 0, else 1 to 16) and HMSG = LE64(L); the rest of the operation state is
cleared and STATE is E_NAME (R241). -/
def Obligations.EncStartCompletes : Prop :=
  ∀ (s : State) (p : Snap), s.completing = some false →
    s.pend = some { cmd := .encStart, snap := p } → s.abrt = false → s.ovr = false →
      exec .encStart s = .next { s with
        iv := zeroBlock, wk := zeroKey, chain := zeroBlock, buf := zeroBlock,
        hmsg := (List.range 8).map fun i => p.len.extractLsb' (8 * i) 8, mmsg := [],
        lastCnt := BitVec.ofNat 5 (if p.len = 0#64 then 0 else (p.len.toNat - 1) % 16 + 1),
        dout := zeroBlock, doutCnt := 0#5, tag := zeroTag,
        blkrem := BitVec.ofNat 64 (max 1 ((p.len.toNat + 15) / 16)),
        rem := BitVec.ofNat 4 (p.len.toNat % 16), authOk := false, err := .none, dir := false,
        state := .eName,
        cmpl := true, pend := none, busy := false, abrt := false, ovr := false,
        completing := none }

/-- NAME_APPEND n in its completion step appends the snapshot's DIN[0..n) to HMSG and changes nothing
else; NAME_APPEND 0 completes whatever the draw (R246, R189). A pending count above 16, which no run
reaches, is covered too and appends all 16 bytes (DESIGN CHOICE, log entry 12). -/
def Obligations.NameAppendCompletes : Prop :=
  ∀ (n : BitVec 5) (s : State) (p : Snap) (pf : Bool), s.completing = some pf →
    s.pend = some { cmd := .nameAppend n, snap := p } → s.abrt = false → s.ovr = false →
    pf = false ∨ n = 0#5 →
      exec (.nameAppend n) s = .next { s with
        hmsg := s.hmsg ++ p.din.toList.take n.toNat,
        cmpl := true, pend := none, busy := false, abrt := false, ovr := false,
        completing := none }

/-- IV_GEN in its completion step: the IV is the first 16 bytes of H(HMSG) with REM in the low nibble
of byte 15; it goes to IV, CHAIN and DOUT, WK is the key stretched from the snapshot's secret, HMSG
and MMSG are emptied and STATE is E_STREAM (R251). -/
def Obligations.IvGenCompletes : Prop :=
  ∀ (s : State) (p : Snap), s.completing = some false →
    s.pend = some { cmd := .ivGen, snap := p } → s.abrt = false → s.ovr = false →
      ∃ iv : Block,
        (∀ k : Fin 16, k.val < 15 → iv[k] = (Config.params.hash s.hmsg)[k.val]) ∧
        iv[15] = ((Config.params.hash s.hmsg)[15] &&& 0xF0#8) ||| s.rem.setWidth 8 ∧
        exec .ivGen s = .next { s with
          iv := iv, wk := stretchKey Config.params p.secret iv, chain := iv, mmsg := [], hmsg := [],
          dout := iv, doutCnt := 16#5, state := .eStream,
          cmpl := true, pend := none, busy := false, abrt := false, ovr := false,
          completing := none }

/-- ENC_BLOCK in its completion step when BLKREM ≠ 1: all 16 bytes of the snapshot's DIN go to BUF,
C = E(WK, BUF ⊕ CHAIN) goes to CHAIN, MMSG and DOUT, BLKREM counts down, STATE stays (R262). BLKREM = 0,
which no run reaches here (R66), is covered too and counts down modulo 2^64 (DESIGN CHOICE, log
entry 12). -/
def Obligations.EncBlockContinues : Prop :=
  ∀ (s : State) (p : Snap), s.completing = some false →
    s.pend = some { cmd := .encBlock, snap := p } → s.abrt = false → s.ovr = false →
    s.blkrem ≠ 1#64 →
      ∃ x : Block, (∀ k : Fin 16, x[k] = p.din[k] ^^^ s.chain[k]) ∧
        exec .encBlock s = .next { s with
          buf := p.din, chain := Config.params.encipher s.wk x,
          mmsg := s.mmsg ++ (Config.params.encipher s.wk x).toList,
          dout := Config.params.encipher s.wk x, doutCnt := 16#5, blkrem := s.blkrem - 1#64,
          cmpl := true, pend := none, busy := false, abrt := false, ovr := false,
          completing := none }

/-- The final ENC_BLOCK (BLKREM = 1) in its completion step: LASTCNT bytes are taken, the bytes beyond
them are the stale bytes of BUF, TAG is the MAC of all ciphertext blocks, the working state is
zeroized and STATE is DONE (R262, R263, R264). A LASTCNT above 16, which no run reaches (R62), is
covered too and takes all 16 bytes (DESIGN CHOICE, log entry 12). -/
def Obligations.EncBlockFinishes : Prop :=
  ∀ (s : State) (p : Snap), s.completing = some false →
    s.pend = some { cmd := .encBlock, snap := p } → s.abrt = false → s.ovr = false →
    s.blkrem = 1#64 →
      ∃ x : Block,
        (∀ k : Fin 16, x[k] =
          (if k.val < s.lastCnt.toNat then p.din[k] else s.buf[k]) ^^^ s.chain[k]) ∧
        exec .encBlock s = .next { s with
          dout := Config.params.encipher s.wk x, doutCnt := 16#5, blkrem := 0#64,
          tag := Config.params.mac s.wk (s.mmsg ++ (Config.params.encipher s.wk x).toList),
          iv := zeroBlock, wk := zeroKey, chain := zeroBlock, buf := zeroBlock, hmsg := [],
          mmsg := [], lastCnt := 0#5, state := .done,
          cmpl := true, pend := none, busy := false, abrt := false, ovr := false,
          completing := none }

/-- DEC_START: a well-formed container length gives BLKREM = (CL - 48)/16, DIR = 1 and D_IV with the
operation state cleared; any other length raises FORMAT (R271, R132). -/
def Obligations.DecStartCompletes : Prop :=
  ∀ s : State, s.busy = false → s.state = .idle ∨ s.state = .done ∨ s.state = .error →
    if 48 ≤ s.len.toNat ∧ (s.len.toNat - 48) % 16 = 0 then
      exec .decStart s = .next { s with
        iv := zeroBlock, wk := zeroKey, chain := zeroBlock, buf := zeroBlock, hmsg := [],
        mmsg := [], lastCnt := 0#5, dout := zeroBlock, doutCnt := 0#5, tag := zeroTag,
        blkrem := BitVec.ofNat 64 ((s.len.toNat - 48) / 16), rem := 0#4, authOk := false,
        err := .none, dir := true, state := .dIv, cmpl := true }
    else exec .decStart s = .next (raiseError .format s)

/-- IV_LOAD in its completion step: the snapshot's DIN goes to IV and CHAIN, its last low nibble to
REM, WK is stretched from the snapshot's secret, MMSG is empty, and STATE is D_TAG when no block is
expected and D_STREAM otherwise (R276, R273). -/
def Obligations.IvLoadCompletes : Prop :=
  ∀ (s : State) (p : Snap), s.completing = some false →
    s.pend = some { cmd := .ivLoad, snap := p } → s.abrt = false → s.ovr = false →
      exec .ivLoad s = .next { s with
        iv := p.din, rem := BitVec.ofNat 4 (p.din[15].toNat % 16),
        wk := stretchKey Config.params p.secret p.din, chain := p.din, mmsg := [],
        state := if s.blkrem = 0#64 then .dTag else .dStream,
        cmpl := true, pend := none, busy := false, abrt := false, ovr := false,
        completing := none }

/-- DEC_BLOCK in its completion step: D(WK, C) ⊕ CHAIN goes to DOUT, cut to REM bytes for a final block
with REM ≠ 0 (the bytes beyond read 0), C goes to CHAIN and MMSG, BLKREM counts down, and after the
last block STATE is D_TAG (R285). BLKREM = 0, which no run reaches here (R66), is covered too and
counts down modulo 2^64 (DESIGN CHOICE, log entry 12). -/
def Obligations.DecBlockCompletes : Prop :=
  ∀ (s : State) (p : Snap), s.completing = some false →
    s.pend = some { cmd := .decBlock, snap := p } → s.abrt = false → s.ovr = false →
      ∃ (cnt : Nat) (d : Block),
        cnt = (if s.blkrem = 1#64 ∧ s.rem ≠ 0#4 then s.rem.toNat else 16) ∧
        (∀ k : Fin 16, d[k] =
          if k.val < cnt then (Config.params.decipher s.wk p.din)[k] ^^^ s.chain[k] else 0#8) ∧
        exec .decBlock s = .next { s with
          mmsg := s.mmsg ++ p.din.toList, chain := p.din, dout := d,
          doutCnt := BitVec.ofNat 5 cnt, blkrem := s.blkrem - 1#64,
          state := if s.blkrem = 1#64 then .dTag else s.state,
          cmpl := true, pend := none, busy := false, abrt := false, ovr := false,
          completing := none }

/-- TAG_CHECK in its completion step: with TAGIN of the snapshot equal to MAC(WK, MMSG), AUTH_OK is 1,
the working state is zeroized, DOUT and TAG stay, and STATE is DONE; otherwise AUTH is raised
(R295). -/
def Obligations.TagCheckCompletes : Prop :=
  ∀ (s : State) (p : Snap), s.completing = some false →
    s.pend = some { cmd := .tagCheck, snap := p } → s.abrt = false → s.ovr = false →
    (Config.params.mac s.wk s.mmsg = p.tagin →
      exec .tagCheck s = .next { s with
        authOk := true, iv := zeroBlock, wk := zeroKey, chain := zeroBlock, buf := zeroBlock,
        hmsg := [], mmsg := [], lastCnt := 0#5, state := .done,
        cmpl := true, pend := none, busy := false, abrt := false, ovr := false,
        completing := none }) ∧
    (Config.params.mac s.wk s.mmsg ≠ p.tagin →
      exec .tagCheck s = .next { raiseError .auth s with completing := none })

/-! ## The protocol's functions, over any collaborators -/

/-- stretchKey is exactly 8192 applications of d ↦ H(d ‖ S) to the IV, and the first 16 bytes of the
last digest (R210). -/
def Obligations.StretchKeyIsIterated : Prop :=
  ∀ (P : Config.Params) (S : Bytes) (iv : Block),
    (stretchKey P S iv).toList =
      ((fun d : Bytes => (P.hash (d ++ S)).toList)^[8192] iv.toList).take 16

/-- The derived IV: bytes 0 to 14 and the high nibble of byte 15 are those of H(LE64(L) ‖ name), and
the low nibble of byte 15 is L mod 16 (R200, R202). -/
def Obligations.DerivedIvCarriesRemainder : Prop :=
  ∀ (P : Config.Params) (L : BitVec 64) (name : Bytes),
    (∀ k : Fin 16, k.val < 15 → (deriveIV P L name)[k] =
      (P.hash ((List.range 8).map (fun i => L.extractLsb' (8 * i) 8) ++ name))[k.val]) ∧
    (deriveIV P L name)[15].toNat / 16 =
      (P.hash ((List.range 8).map (fun i => L.extractLsb' (8 * i) 8) ++ name))[15].toNat / 16 ∧
    (deriveIV P L name)[15].toNat % 16 = L.toNat % 16

/-- The block count and the last block's count: N = max(1, ceil(L/16)), the blocks together take
exactly L bytes, the last takes 1 to 16 of them unless L = 0, and for a 64-bit L both fit their
registers (R241, R242, R243). -/
def Obligations.BlockCountsAddUp : Prop :=
  ∀ L : Nat,
    blockCount L = max 1 ((L + 15) / 16) ∧ 16 * (blockCount L - 1) + lastCount L = L ∧
    lastCount L ≤ 16 ∧ (L ≠ 0 → 1 ≤ lastCount L) ∧ lastCount L % 16 = L % 16 ∧
    (L < 2 ^ 64 → blockCount L ≤ 2 ^ 60)

/-- A container length is well-formed exactly when it is 48 + 16 N for some N, which is then the block
count of DEC_START; in particular it is for the N of any plaintext length (R131, R132, R134). -/
def Obligations.WellFormedLengths : Prop :=
  (∀ CL : Nat, wellFormedLen CL = true ↔ ∃ N, CL = 48 + 16 * N) ∧
  ∀ N : Nat, containerBlocks (48 + 16 * N) = N ∧ containerLen N = 48 + 16 * N

/-- The chaining combination: the bytewise XOR of two blocks, read most significant byte first, is the
XOR of the two integers that the blocks are, at full width (R230). -/
def Obligations.ChainingIsBigEndianXor : Prop :=
  ∀ a b : Block,
    (∀ i : Fin 16, (xorBlock a b)[i] = a[i] ^^^ b[i]) ∧
    bigEndian (xorBlock a b) = bigEndian a ^^^ bigEndian b

/-- If the cipher inverts, DecBlock inverts EncBlock under the same key and chaining value, both leave
the ciphertext as the next chaining value, and so decrypting a stream of ciphertext blocks from the
same IV and key gives back every plaintext block (R235). -/
def Obligations.BlockTransformInverts : Prop :=
  ∀ P : Config.Params, P.CipherInverse → ∀ k : Block,
    (∀ p chain : Block,
      (decryptBlock P k (encryptBlock P k p chain).1 chain).1 = p ∧
      (encryptBlock P k p chain).2 = (encryptBlock P k p chain).1 ∧
      (decryptBlock P k (encryptBlock P k p chain).1 chain).2 = (encryptBlock P k p chain).1) ∧
    ∀ (iv : Block) (ps : List Block),
      decryptStream P k iv (encryptStream P k iv ps) = ps

/-- The tag comparison holds exactly for equal tags, so all 32 byte pairs matter (R296). -/
def Obligations.TagComparisonIsEquality : Prop := ∀ a b : Tag, ctEq a b = true ↔ a = b

/-! ## Whole operations -/

/-- Round trip, over any collaborators whose cipher inverts: a plaintext of 1 to 2^64 - 64 bytes (its
container's length fits LEN), encrypted from any state in which ENC_START is legal, with any
NAME_APPENDs, decrypts, from any state with the same SECRET in which DEC_START is legal, to exactly
its bytes, and both operations end in DONE, the second with AUTH_OK = 1 (R298, R240, R270). The
operations are sequences of `runCommand`, which RunCommandIsTheMachine ties to `step` for counts of at
most 16. `names` ranges over counts of 17 to 31 too: their words are illegal (R114, R246), and that
`runCommand` completes them, taking all 16 bytes, is the model's choice (DESIGN CHOICE, log entry
12). -/
def Obligations.DecryptInvertsEncrypt : Prop :=
  ∀ P : Config.Params, P.CipherInverse →
    ∀ (s r : State) (names : List (BitVec 5 × Block)) (plain : Bytes),
      legal .encStart s.state = true → legal .decStart r.state = true → s.secret = r.secret →
      1 ≤ plain.length → plain.length ≤ 2 ^ 64 - 64 →
        ∃ c u d, encryptFile P names plain s = .ok (c, u) ∧ u.state = .done ∧
          c.length = 48 + 16 * ((plain.length + 15) / 16) ∧
          decryptFile P c r = .ok (plain, d) ∧ d.state = .done ∧ d.authOk = true

/-- The empty plaintext: its container has 64 bytes and decrypts to 16 zero bytes, not to none
(R299; 90_conflicts.md C1). `names` ranges over counts of 17 to 31 too: their words are illegal (R114,
R246), and that `runCommand` completes them, taking all 16 bytes, is the model's choice (DESIGN
CHOICE, log entry 12). -/
def Obligations.EmptyPlaintextDecryptsToZeros : Prop :=
  ∀ P : Config.Params, P.CipherInverse →
    ∀ (s r : State) (names : List (BitVec 5 × Block)),
      legal .encStart s.state = true → legal .decStart r.state = true → s.secret = r.secret →
        ∃ c u d, encryptFile P names [] s = .ok (c, u) ∧ u.state = .done ∧ c.length = 64 ∧
          decryptFile P c r = .ok (List.replicate 16 0#8, d) ∧ d.state = .done ∧ d.authOk = true

/-- The container is a function of L, the name's bytes, SECRET and the file's bytes: neither the state
an encryption starts from nor how the name is cut into NAME_APPENDs matters (R265, R246). `names` and
`names'` range over counts of 17 to 31 too: their words are illegal (R114, R246), no container is made
from them on the machine, and that `runCommand` completes them and `namesBytes` reads them as all 16
bytes is the model's choice (DESIGN CHOICE, log entry 12). -/
def Obligations.ContainerIsDetermined : Prop :=
  ∀ (P : Config.Params) (s r : State) (names names' : List (BitVec 5 × Block)) (plain : Bytes),
    legal .encStart s.state = true → legal .encStart r.state = true → s.secret = r.secret →
    namesBytes names = namesBytes names' → plain.length < 2 ^ 64 →
      ∃ c u v, encryptFile P names plain s = .ok (c, u) ∧
        encryptFile P names' plain r = .ok (c, v)

/-! ## Invariants and whole-machine rules -/

/-- Every step keeps the bookkeeping of the two phases: PEND ≠ none exactly when BUSY = 1 (R63), ABRT
and OVR only while BUSY (R150, R151), and a pending command busy-class, well-formed and legal in
STATE, its snapshot's secret being SECRET (R155, R217). That STATE and the results stay as they were
at acceptance (R153) is BusyHoldsResults. -/
def Obligations.StepKeepsControl : Prop :=
  ∀ s t : State, Control s → step s = .next t → Control t

/-- Every step keeps the machine's invariant: the control bookkeeping, KEYLEN as SECRET's length
within SECRET_MAX (R49, R55), the zeroized working secrets outside an operation (R71), the verdict
flags (R39, R41), DOUT's zero tail (R52), the counters and the IV's remainder nibble (R66, R70) and
the chaining value (R69). -/
def Obligations.StepKeepsInvariant : Prop := ∀ s t : State, Inv s → step s = .next t → Inv t

/-- The length of MMSG: on entering E_STREAM or D_STREAM, MMSG is empty and BLKREM is the N that START
wrote and that E_NAME and D_IV kept, and each step that stays in E_STREAM or D_STREAM, or takes the
last block to D_TAG, keeps len(MMSG) + 16 BLKREM: so len(MMSG) = 16 (N - BLKREM) (R70). -/
def Obligations.StreamedLength : Prop :=
  ∀ s t : State, Inv s → step s = .next t →
    (s.state = .eName ∨ s.state = .dIv → t.state = s.state → t.blkrem = s.blkrem) ∧
    ((s.state = .eName ∧ t.state = .eStream) ∨ (s.state = .dIv ∧ t.state = .dStream) →
      t.mmsg = [] ∧ t.blkrem = s.blkrem) ∧
    ((s.state = .eStream ∧ t.state = .eStream) ∨
      (s.state = .dStream ∧ (t.state = .dStream ∨ t.state = .dTag)) →
      t.mmsg.length + 16 * t.blkrem.toNat = s.mmsg.length + 16 * s.blkrem.toNat)

/-- The reset state has the invariant (R341). -/
def Obligations.ResetHasInvariant : Prop := Inv State.reset

/-- From a state with the machine's invariant, AUTH_OK becomes 1, or DONE of a decrypt operation is
entered, only in the completion step of a TAG_CHECK accepted in D_TAG whose snapshot's TAGIN is
MAC(WK, MMSG), and that step does both. So DONE with DIR = 1 always means that the tag was verified:
AUTH_OK is 1 there (R297). -/
def Obligations.AuthOkOnlyByTagCheck : Prop :=
  (∀ s t : State, Inv s → step s = .next t →
    (s.authOk = false ∧ t.authOk = true) ∨
      (s.state ≠ .done ∧ t.state = .done ∧ t.dir = true) →
    ∃ p rest, s.inputs = .complete false :: rest ∧ s.busy = true ∧
      s.pend = some { cmd := .tagCheck, snap := p } ∧ s.state = .dTag ∧
      ctEq (Config.params.mac s.wk s.mmsg) p.tagin = true ∧
      Config.params.mac s.wk s.mmsg = p.tagin ∧ t.authOk = true ∧ t.state = .done) ∧
  ∀ s t : State, Inv s → step s = .next t → t.state = .done → t.dir = true → t.authOk = true

/-- SECRET is changed only by a KEY_CLEAR or KEY_APPEND word written to CMD with BUSY = 0 in IDLE, DONE
or ERROR, and by reset (R55, R214, R216, R340). -/
def Obligations.SecretOnlyByKeyCommands : Prop :=
  ∀ s t : State, step s = .next t → t.secret ≠ s.secret →
    (∃ rest, s.inputs = .reset :: rest) ∨
    (∃ rest data i, s.inputs = .write 0x04#8 .w32 data :: rest ∧ s.busy = false ∧
      decode (data.setWidth 32) = .ok i ∧ (i = .keyClear ∨ ∃ n, i = .keyAppend n) ∧
      (s.state = .idle ∨ s.state = .done ∨ s.state = .error))

/-- STATE changes only along R156's table and the four errors beside it, by the command of the row:
to IDLE by reset, by ABORT's word with BUSY = 0 or by a completion with ABRT set; to ERROR by the
event that raises the code that ERR then holds (R300, R305); from IDLE, DONE or ERROR by the completion
of ENC_START or the word of DEC_START, ERR then being NONE; and along the two paths of an operation by
the completion of IV_GEN, ENC_BLOCK, IV_LOAD, DEC_BLOCK or TAG_CHECK, under the row's condition. So
ERROR is left only by reset, ABORT, ENC_START or DEC_START, with ERR = NONE (R309). -/
def Obligations.StateTransitions : Prop :=
  (∀ s t : State, Control s → step s = .next t → t.state ≠ s.state →
    ((∃ rest, s.inputs = .reset :: rest) ∧ t.state = .idle ∧ t.err = .none) ∨
    (Presents s 0x00000001#32 ∧ t.state = .idle ∧ t.err = .none) ∨
    ((∃ i p pf, Completes s i p pf) ∧ s.abrt = true ∧ t.state = .idle ∧ t.err = .none) ∨
    (Raises s t.err ∧ t.state = .error ∧ t.fail = true) ∨
    ((s.state = .idle ∨ s.state = .done ∨ s.state = .error) ∧ (∃ p, Undisturbed s .encStart p) ∧
      t.state = .eName ∧ t.err = .none) ∨
    ((s.state = .idle ∨ s.state = .done ∨ s.state = .error) ∧ Presents s 0x00000020#32 ∧
      wellFormedLen s.len.toNat = true ∧ t.state = .dIv ∧ t.err = .none) ∨
    (s.state = .eName ∧ (∃ p, Undisturbed s .ivGen p) ∧ t.state = .eStream) ∨
    (s.state = .eStream ∧ (∃ p, Undisturbed s .encBlock p) ∧ s.blkrem = 1#64 ∧ t.state = .done) ∨
    (s.state = .dIv ∧ (∃ p, Undisturbed s .ivLoad p) ∧ s.blkrem ≠ 0#64 ∧ t.state = .dStream) ∨
    (s.state = .dIv ∧ (∃ p, Undisturbed s .ivLoad p) ∧ s.blkrem = 0#64 ∧ t.state = .dTag) ∨
    (s.state = .dStream ∧ (∃ p, Undisturbed s .decBlock p) ∧ s.blkrem = 1#64 ∧ t.state = .dTag) ∨
    (s.state = .dTag ∧
      (∃ p, Undisturbed s .tagCheck p ∧ Config.params.mac s.wk s.mmsg = p.tagin) ∧
      t.state = .done ∧ t.authOk = true)) ∧
  ∀ s t : State, Control s → step s = .next t → s.state = .error → t.state ≠ .error →
    t.err = .none ∧
    (((∃ rest, s.inputs = .reset :: rest) ∧ t.state = .idle) ∨
     (Presents s 0x00000001#32 ∧ t.state = .idle) ∨
     ((∃ i p pf, Completes s i p pf) ∧ s.abrt = true ∧ t.state = .idle) ∨
     ((∃ p, Undisturbed s .encStart p) ∧ t.state = .eName) ∨
     (Presents s 0x00000020#32 ∧ t.state = .dIv))

/-- What the host writes to DIN, TAGIN or LEN after a busy command's acceptance does not reach that
command: writing first and completing then leaves the state that completing first and writing then
leaves (R152, R347). -/
def Obligations.LateOperandWritesDoNotReach : Prop :=
  ∀ (s : State) (r : Reg) (v : Word) (pf : Bool) (rest : List Input) (p : Pending),
    s.busy = true → s.pend = some p → p.cmd.class = .busy →
    (r = .lenLo ∨ r = .lenHi ∨ (∃ j, r = .din j) ∨ ∃ j, r = .tagin j) →
    ∃ a b c d,
      step { s with inputs := hostWr r v :: .complete pf :: rest } = .next a ∧ step a = .next b ∧
      step { s with inputs := .complete pf :: hostWr r v :: rest } = .next c ∧ step c = .next d ∧
      b = d

end Statements
end

