-- ==== Sys2Proof/Laws/Bytes.lean ====
section
/-! SUPPORT. Byte k of each block that an operation on byte strings makes, and the lengths. -/

namespace Sys2Proof.Machine

open Sys2Proof

@[simp] theorem xorBlock_getElem (a b : Block) (i : Nat) (h : i < Config.blockLen) :
    (xorBlock a b)[i] = a[i] ^^^ b[i] := by
  simp [xorBlock]

@[simp] theorem overlay_getElem (n : Nat) (src dst : Block) (i : Nat) (h : i < Config.blockLen) :
    (overlay n src dst)[i] = if i < n then src[i] else dst[i] := by
  simp [overlay]

@[simp] theorem firstN_getElem (n : Nat) (b : Bytes) (i : Nat) (h : i < n) :
    (firstN n b)[i] = byteAt b i := by
  simp [firstN]

@[simp] theorem blockOf_getElem (b : Bytes) (i : Nat) (h : i < Config.blockLen) :
    (blockOf b)[i] = byteAt b i := firstN_getElem _ b i h

@[simp] theorem tagOf_getElem (b : Bytes) (i : Nat) (h : i < Config.tagLen) :
    (tagOf b)[i] = byteAt b i := firstN_getElem _ b i h

@[simp] theorem keyOf_getElem (b : Bytes) (i : Nat) (h : i < Config.wkLen) :
    (keyOf b)[i] = byteAt b i := firstN_getElem _ b i h

@[simp] theorem writeLanes_getElem {n : Nat} (v : Vector Byte n) (j : Nat) (w : Word) (i : Nat)
    (h : i < n) :
    (writeLanes v j w)[i] = if i / 4 = j then byteOfWord w (i % 4) else v[i] := by
  simp [writeLanes]

@[simp] theorem zeroBlock_getElem (i : Nat) (h : i < Config.blockLen) : zeroBlock[i] = 0#8 := by
  simp [zeroBlock]

@[simp] theorem le64_length (v : Size) : (le64 v).length = Config.sizeLen := by
  simp [le64]

/-- Byte k of a block, read through its byte string. -/
@[simp] theorem byteAt_toList {n : Nat} (v : Vector Byte n) (k : Nat) (h : k < n) :
    byteAt v.toList k = v[k] := by
  simp [byteAt, List.getD, h]

/-- XOR with the same block twice gives the block back. -/
theorem xorBlock_cancel (a b : Block) : xorBlock (xorBlock a b) b = a := by
  ext i h
  simp

/-- All bytes of a block taken: it replaces the block below it. -/
@[simp] theorem overlay_all (src dst : Block) : overlay Config.blockLen src dst = src := by
  ext i h
  simp [h]

/-- No byte taken: the block below stays. -/
@[simp] theorem overlay_zero (src dst : Block) : overlay 0 src dst = dst := by
  ext i h
  simp

/-- The block of a block's own bytes is the block. -/
@[simp] theorem blockOf_toList (b : Block) : blockOf b.toList = b := by
  ext i h
  simp [h]

/-- Byte k of an IV with its remainder field set (R133). -/
@[simp] theorem withRemainder_getElem (iv : Block) (r : Remainder) (k : Nat)
    (h : k < Config.blockLen) :
    (withRemainder iv r)[k] =
      if k = Config.blockLen - 1 then withLowNibble (lastByte iv) r else iv[k] := by
  unfold withRemainder
  simp only [Vector.getElem_set, eq_comm]

/-- The last byte of an IV with its remainder field set (R133). -/
@[simp] theorem lastByte_withRemainder (iv : Block) (r : Remainder) :
    lastByte (withRemainder iv r) = withLowNibble (lastByte iv) r := by
  rw [lastByte, withRemainder_getElem, if_pos rfl]

/-- The low nibble of a byte is its low four bits. -/
theorem lowNibble_eq (b : Byte) : lowNibble b = b.setWidth Config.remBits := by
  revert b
  decide

/-- The remainder field of an IV is the remainder put into it (R133, R135). -/
@[simp] theorem lowNibble_withLowNibble (b : Byte) (r : Remainder) :
    lowNibble (withLowNibble b r) = r := by
  have h0 : (b &&& ~~~Config.remMask).setWidth Config.remBits = 0#Config.remBits := by
    rw [BitVec.setWidth_and]
    exact BitVec.and_zero
  rw [lowNibble_eq, withLowNibble, BitVec.setWidth_or, h0, BitVec.zero_or,
    BitVec.setWidth_setWidth_of_le _ (by decide), BitVec.setWidth_eq]

/-- A tag compares equal to itself (R296). -/
@[simp] theorem ctEq_self (a : Tag) : ctEq a a = true := by
  have all : ∀ (l : Bytes), (l.zip l).foldl (fun acc p => acc ||| (p.1 ^^^ p.2)) 0#8 = 0#8 := by
    intro l
    induction l with
    | nil => rfl
    | cons x l ih => simpa using ih
  simp [ctEq, all]

end Sys2Proof.Machine
end

