-- ==== Sys2Proof/Laws/Config.lean ====
section
/-! SUPPORT. The values of the constants (00_scope.md R10 to R17), for arithmetic that must see the
numbers, and the range of SECRET_MAX (R18). -/

namespace Sys2Proof.Config

theorem blockLen_eq : blockLen = 16 := rfl
theorem tagLen_eq : tagLen = 32 := rfl
theorem hashLen_eq : hashLen = 32 := rfl
theorem wkLen_eq : wkLen = 16 := rfl
theorem remBits_eq : remBits = 4 := rfl
theorem sizeBits_eq : sizeBits = 64 := rfl
theorem sizeLen_eq : sizeLen = 8 := rfl
theorem minContainer_eq : minContainer = 48 := rfl
theorem maxBlocks_eq : maxBlocks = 2 ^ 60 := rfl
theorem maxCount_eq : maxCount = 16 := rfl

/-- A size fits 64 bits (R16). -/
theorem size_lt (v : Size) : v.toNat < 2 ^ 64 := v.isLt

/-- A remainder fits 4 bits (R15). -/
theorem remainder_lt (v : Remainder) : v.toNat < 16 := v.isLt

/-- SECRET_MAX is at least 1 (R18). -/
theorem Params.secretMax_pos (P : Params) : 1 ≤ P.secretMax := Nat.le_max_left _ _

/-- SECRET_MAX fits 32 bits (R18). -/
theorem Params.secretMax_lt (P : Params) : P.secretMax < 2 ^ 32 := by
  have := P.secretMaxBits.isLt
  unfold Params.secretMax
  omega

end Sys2Proof.Config
end

