-- ==== Sys2Proof/Laws/PerInstr.lean ====
section
/-! SUPPORT. What is said of every command, constructor by constructor: the fields of its word are the
opcode, the count and the reserved zeros of R110, and the decoder looks it up by them. -/

namespace Sys2Proof.Laws

open Sys2Proof

/-- The three fields of the word of a command (R110, R113). -/
def EncodedFields.Statement (i : Instr) : Prop :=
  opcField (encode i) = i.opcode ∧ cntField (encode i) = i.count ∧ rsvField (encode i) = 0#19 ∧
    lookupOpcode i.opcode i.count = some i

theorem EncodedFields.abort : EncodedFields.Statement .abort := by
  unfold EncodedFields.Statement; decide

theorem EncodedFields.keyClear : EncodedFields.Statement .keyClear := by
  unfold EncodedFields.Statement; decide

theorem EncodedFields.keyAppend (n : BitVec 5) : EncodedFields.Statement (.keyAppend n) := by
  revert n; unfold EncodedFields.Statement; decide

theorem EncodedFields.encStart : EncodedFields.Statement .encStart := by
  unfold EncodedFields.Statement; decide

theorem EncodedFields.nameAppend (n : BitVec 5) : EncodedFields.Statement (.nameAppend n) := by
  revert n; unfold EncodedFields.Statement; decide

theorem EncodedFields.ivGen : EncodedFields.Statement .ivGen := by
  unfold EncodedFields.Statement; decide

theorem EncodedFields.encBlock : EncodedFields.Statement .encBlock := by
  unfold EncodedFields.Statement; decide

theorem EncodedFields.decStart : EncodedFields.Statement .decStart := by
  unfold EncodedFields.Statement; decide

theorem EncodedFields.ivLoad : EncodedFields.Statement .ivLoad := by
  unfold EncodedFields.Statement; decide

theorem EncodedFields.decBlock : EncodedFields.Statement .decBlock := by
  unfold EncodedFields.Statement; decide

theorem EncodedFields.tagCheck : EncodedFields.Statement .tagCheck := by
  unfold EncodedFields.Statement; decide

end Sys2Proof.Laws
end

