-- ==== Sys2Proof/Laws/Decode.lean ====
section
/-! SUPPORT. What the decoder can answer, and that a word is its three fields and its four bytes. -/

namespace Sys2Proof

/-- The table of R113 gives each command for its own opcode, with the count where it takes one. -/
theorem lookupOpcode_some {opc : BitVec 8} {cnt : BitVec 5} {i : Instr}
    (h : lookupOpcode opc cnt = some i) :
    opc = i.opcode ∧ (i.takesCount = true → cnt = i.count) := by
  unfold lookupOpcode at h
  repeat' split at h
  all_goals first
    | (cases h; done)
    | (cases h; rename_i ho; exact ⟨ho, by first | exact fun _ => rfl | (intro hc; cases hc)⟩)

/-- All that a successful decoding says: RSV = 0, OPC and CNT are the command's, and the command is
well-formed (R115). -/
theorem decode_ok {w : Word} {i : Instr} (h : decode w = .ok i) :
    rsvField w = 0#19 ∧ opcField w = i.opcode ∧ cntField w = i.count ∧ i.wf = true := by
  unfold decode at h
  split at h
  · cases h
  rename_i hr
  split at h
  · cases h
  rename_i j hj
  obtain ⟨ho, hc⟩ := lookupOpcode_some hj
  refine ⟨Decidable.not_not.mp hr, ?_⟩
  split at h
  · rename_i ht
    split at h
    · cases h
    rename_i hle
    cases h
    have hcnt := hc ht
    refine ⟨ho, hcnt, ?_⟩
    cases i <;> simp_all [Instr.takesCount, Instr.wf, Instr.count]
  · rename_i ht
    split at h
    · cases h
    rename_i hz
    cases h
    refine ⟨ho, ?_, ?_⟩
    · rw [Decidable.not_not.mp hz]
      cases i <;> simp_all [Instr.takesCount, Instr.count]
    · cases i <;> simp_all [Instr.takesCount, Instr.wf]

/-- A word is RSV ‖ CNT ‖ OPC (R110). -/
theorem word_of_fields (w : Word) : (rsvField w ++ cntField w) ++ opcField w = w := by
  simp only [rsvField, cntField, opcField]
  rw [BitVec.extractLsb'_append_extractLsb'_eq_extractLsb' (by rfl),
    BitVec.extractLsb'_append_extractLsb'_eq_extractLsb' (by rfl)]
  simp

/-- A word is the word of its four bytes (R90). -/
@[simp] theorem wordOfBytes_byteOfWord (w : Word) :
    wordOfBytes (byteOfWord w 0) (byteOfWord w 1) (byteOfWord w 2) (byteOfWord w 3) = w := by
  simp only [wordOfBytes, byteOfWord]
  rw [BitVec.extractLsb'_append_extractLsb'_eq_extractLsb' (by rfl),
    BitVec.extractLsb'_append_extractLsb'_eq_extractLsb' (by rfl),
    BitVec.extractLsb'_append_extractLsb'_eq_extractLsb' (by rfl)]
  simp

end Sys2Proof
end

