-- ==== Sys2Proof/Laws/State.lean ====
section
/-! SUPPORT. One lemma per field and shared update of the state: what doneClear, opClear, raiseError,
abortActions, finishOk, endStep, setCmpl
and hold leave in each field. -/

namespace Sys2Proof.Machine

open Sys2Proof

variable (s : State) (c : ErrCode) (i : Instr) (p : Snap)

/-! ## doneClear -/

@[simp] theorem doneClear_state : (doneClear s).state = s.state := rfl
@[simp] theorem doneClear_busy : (doneClear s).busy = s.busy := rfl
@[simp] theorem doneClear_dir : (doneClear s).dir = s.dir := rfl
@[simp] theorem doneClear_authOk : (doneClear s).authOk = s.authOk := rfl
@[simp] theorem doneClear_err : (doneClear s).err = s.err := rfl
@[simp] theorem doneClear_doutCnt : (doneClear s).doutCnt = s.doutCnt := rfl
@[simp] theorem doneClear_rem : (doneClear s).rem = s.rem := rfl
@[simp] theorem doneClear_ovr : (doneClear s).ovr = s.ovr := rfl
@[simp] theorem doneClear_cmplIe : (doneClear s).cmplIe = s.cmplIe := rfl
@[simp] theorem doneClear_failIe : (doneClear s).failIe = s.failIe := rfl
@[simp] theorem doneClear_cmpl : (doneClear s).cmpl = s.cmpl := rfl
@[simp] theorem doneClear_fail : (doneClear s).fail = s.fail := rfl
@[simp] theorem doneClear_len : (doneClear s).len = s.len := rfl
@[simp] theorem doneClear_keylen : (doneClear s).keylen = s.keylen := rfl
@[simp] theorem doneClear_blkrem : (doneClear s).blkrem = s.blkrem := rfl
@[simp] theorem doneClear_din : (doneClear s).din = s.din := rfl
@[simp] theorem doneClear_dout : (doneClear s).dout = s.dout := rfl
@[simp] theorem doneClear_tag : (doneClear s).tag = s.tag := rfl
@[simp] theorem doneClear_tagin : (doneClear s).tagin = s.tagin := rfl
@[simp] theorem doneClear_secret : (doneClear s).secret = s.secret := rfl
@[simp] theorem doneClear_iv : (doneClear s).iv = zeroBlock := rfl
@[simp] theorem doneClear_wk : (doneClear s).wk = zeroKey := rfl
@[simp] theorem doneClear_chain : (doneClear s).chain = zeroBlock := rfl
@[simp] theorem doneClear_buf : (doneClear s).buf = zeroBlock := rfl
@[simp] theorem doneClear_hmsg : (doneClear s).hmsg = [] := rfl
@[simp] theorem doneClear_mmsg : (doneClear s).mmsg = [] := rfl
@[simp] theorem doneClear_lastCnt : (doneClear s).lastCnt = 0#5 := rfl
@[simp] theorem doneClear_pend : (doneClear s).pend = s.pend := rfl
@[simp] theorem doneClear_abrt : (doneClear s).abrt = s.abrt := rfl
@[simp] theorem doneClear_completing : (doneClear s).completing = s.completing := rfl
@[simp] theorem doneClear_inputs : (doneClear s).inputs = s.inputs := rfl
@[simp] theorem doneClear_reply : (doneClear s).reply = s.reply := rfl

/-! ## opClear -/

@[simp] theorem opClear_state : (opClear s).state = s.state := rfl
@[simp] theorem opClear_busy : (opClear s).busy = s.busy := rfl
@[simp] theorem opClear_dir : (opClear s).dir = s.dir := rfl
@[simp] theorem opClear_authOk : (opClear s).authOk = false := rfl
@[simp] theorem opClear_err : (opClear s).err = s.err := rfl
@[simp] theorem opClear_doutCnt : (opClear s).doutCnt = 0#5 := rfl
@[simp] theorem opClear_rem : (opClear s).rem = 0 := rfl
@[simp] theorem opClear_ovr : (opClear s).ovr = s.ovr := rfl
@[simp] theorem opClear_cmplIe : (opClear s).cmplIe = s.cmplIe := rfl
@[simp] theorem opClear_failIe : (opClear s).failIe = s.failIe := rfl
@[simp] theorem opClear_cmpl : (opClear s).cmpl = s.cmpl := rfl
@[simp] theorem opClear_fail : (opClear s).fail = s.fail := rfl
@[simp] theorem opClear_len : (opClear s).len = s.len := rfl
@[simp] theorem opClear_keylen : (opClear s).keylen = s.keylen := rfl
@[simp] theorem opClear_blkrem : (opClear s).blkrem = 0#64 := rfl
@[simp] theorem opClear_din : (opClear s).din = s.din := rfl
@[simp] theorem opClear_dout : (opClear s).dout = zeroBlock := rfl
@[simp] theorem opClear_tag : (opClear s).tag = zeroTag := rfl
@[simp] theorem opClear_tagin : (opClear s).tagin = s.tagin := rfl
@[simp] theorem opClear_secret : (opClear s).secret = s.secret := rfl
@[simp] theorem opClear_iv : (opClear s).iv = zeroBlock := rfl
@[simp] theorem opClear_wk : (opClear s).wk = zeroKey := rfl
@[simp] theorem opClear_chain : (opClear s).chain = zeroBlock := rfl
@[simp] theorem opClear_buf : (opClear s).buf = zeroBlock := rfl
@[simp] theorem opClear_hmsg : (opClear s).hmsg = [] := rfl
@[simp] theorem opClear_mmsg : (opClear s).mmsg = [] := rfl
@[simp] theorem opClear_lastCnt : (opClear s).lastCnt = 0#5 := rfl
@[simp] theorem opClear_pend : (opClear s).pend = s.pend := rfl
@[simp] theorem opClear_abrt : (opClear s).abrt = s.abrt := rfl
@[simp] theorem opClear_completing : (opClear s).completing = s.completing := rfl
@[simp] theorem opClear_inputs : (opClear s).inputs = s.inputs := rfl
@[simp] theorem opClear_reply : (opClear s).reply = s.reply := rfl

/-! ## raiseError -/

@[simp] theorem raiseError_state : (raiseError c s).state = .error := rfl
@[simp] theorem raiseError_busy : (raiseError c s).busy = false := rfl
@[simp] theorem raiseError_dir : (raiseError c s).dir = s.dir := rfl
@[simp] theorem raiseError_authOk : (raiseError c s).authOk = false := rfl
@[simp] theorem raiseError_err : (raiseError c s).err = c := rfl
@[simp] theorem raiseError_doutCnt : (raiseError c s).doutCnt = 0#5 := rfl
@[simp] theorem raiseError_rem : (raiseError c s).rem = 0 := rfl
@[simp] theorem raiseError_ovr : (raiseError c s).ovr = false := rfl
@[simp] theorem raiseError_cmplIe : (raiseError c s).cmplIe = s.cmplIe := rfl
@[simp] theorem raiseError_failIe : (raiseError c s).failIe = s.failIe := rfl
@[simp] theorem raiseError_cmpl : (raiseError c s).cmpl = s.cmpl := rfl
@[simp] theorem raiseError_fail : (raiseError c s).fail = true := rfl
@[simp] theorem raiseError_len : (raiseError c s).len = s.len := rfl
@[simp] theorem raiseError_keylen : (raiseError c s).keylen = s.keylen := rfl
@[simp] theorem raiseError_blkrem : (raiseError c s).blkrem = 0#64 := rfl
@[simp] theorem raiseError_din : (raiseError c s).din = s.din := rfl
@[simp] theorem raiseError_dout : (raiseError c s).dout = zeroBlock := rfl
@[simp] theorem raiseError_tag : (raiseError c s).tag = zeroTag := rfl
@[simp] theorem raiseError_tagin : (raiseError c s).tagin = s.tagin := rfl
@[simp] theorem raiseError_secret : (raiseError c s).secret = s.secret := rfl
@[simp] theorem raiseError_iv : (raiseError c s).iv = zeroBlock := rfl
@[simp] theorem raiseError_wk : (raiseError c s).wk = zeroKey := rfl
@[simp] theorem raiseError_chain : (raiseError c s).chain = zeroBlock := rfl
@[simp] theorem raiseError_buf : (raiseError c s).buf = zeroBlock := rfl
@[simp] theorem raiseError_hmsg : (raiseError c s).hmsg = [] := rfl
@[simp] theorem raiseError_mmsg : (raiseError c s).mmsg = [] := rfl
@[simp] theorem raiseError_lastCnt : (raiseError c s).lastCnt = 0#5 := rfl
@[simp] theorem raiseError_pend : (raiseError c s).pend = none := rfl
@[simp] theorem raiseError_abrt : (raiseError c s).abrt = false := rfl
@[simp] theorem raiseError_completing : (raiseError c s).completing = s.completing := rfl
@[simp] theorem raiseError_inputs : (raiseError c s).inputs = s.inputs := rfl
@[simp] theorem raiseError_reply : (raiseError c s).reply = s.reply := rfl

/-! ## abortActions -/

@[simp] theorem abortActions_state : (abortActions s).state = .idle := rfl
@[simp] theorem abortActions_busy : (abortActions s).busy = s.busy := rfl
@[simp] theorem abortActions_dir : (abortActions s).dir = s.dir := rfl
@[simp] theorem abortActions_authOk : (abortActions s).authOk = false := rfl
@[simp] theorem abortActions_err : (abortActions s).err = .none := rfl
@[simp] theorem abortActions_doutCnt : (abortActions s).doutCnt = 0#5 := rfl
@[simp] theorem abortActions_rem : (abortActions s).rem = 0 := rfl
@[simp] theorem abortActions_ovr : (abortActions s).ovr = false := rfl
@[simp] theorem abortActions_cmplIe : (abortActions s).cmplIe = s.cmplIe := rfl
@[simp] theorem abortActions_failIe : (abortActions s).failIe = s.failIe := rfl
@[simp] theorem abortActions_cmpl : (abortActions s).cmpl = s.cmpl := rfl
@[simp] theorem abortActions_fail : (abortActions s).fail = s.fail := rfl
@[simp] theorem abortActions_len : (abortActions s).len = s.len := rfl
@[simp] theorem abortActions_keylen : (abortActions s).keylen = s.keylen := rfl
@[simp] theorem abortActions_blkrem : (abortActions s).blkrem = 0#64 := rfl
@[simp] theorem abortActions_din : (abortActions s).din = s.din := rfl
@[simp] theorem abortActions_dout : (abortActions s).dout = zeroBlock := rfl
@[simp] theorem abortActions_tag : (abortActions s).tag = zeroTag := rfl
@[simp] theorem abortActions_tagin : (abortActions s).tagin = s.tagin := rfl
@[simp] theorem abortActions_secret : (abortActions s).secret = s.secret := rfl
@[simp] theorem abortActions_iv : (abortActions s).iv = zeroBlock := rfl
@[simp] theorem abortActions_wk : (abortActions s).wk = zeroKey := rfl
@[simp] theorem abortActions_chain : (abortActions s).chain = zeroBlock := rfl
@[simp] theorem abortActions_buf : (abortActions s).buf = zeroBlock := rfl
@[simp] theorem abortActions_hmsg : (abortActions s).hmsg = [] := rfl
@[simp] theorem abortActions_mmsg : (abortActions s).mmsg = [] := rfl
@[simp] theorem abortActions_lastCnt : (abortActions s).lastCnt = 0#5 := rfl
@[simp] theorem abortActions_pend : (abortActions s).pend = s.pend := rfl
@[simp] theorem abortActions_abrt : (abortActions s).abrt = s.abrt := rfl
@[simp] theorem abortActions_completing : (abortActions s).completing = s.completing := rfl
@[simp] theorem abortActions_inputs : (abortActions s).inputs = s.inputs := rfl
@[simp] theorem abortActions_reply : (abortActions s).reply = s.reply := rfl

/-! ## finishOk -/

@[simp] theorem finishOk_state : (finishOk s).state = s.state := rfl
@[simp] theorem finishOk_busy : (finishOk s).busy = false := rfl
@[simp] theorem finishOk_dir : (finishOk s).dir = s.dir := rfl
@[simp] theorem finishOk_authOk : (finishOk s).authOk = s.authOk := rfl
@[simp] theorem finishOk_err : (finishOk s).err = s.err := rfl
@[simp] theorem finishOk_doutCnt : (finishOk s).doutCnt = s.doutCnt := rfl
@[simp] theorem finishOk_rem : (finishOk s).rem = s.rem := rfl
@[simp] theorem finishOk_ovr : (finishOk s).ovr = false := rfl
@[simp] theorem finishOk_cmplIe : (finishOk s).cmplIe = s.cmplIe := rfl
@[simp] theorem finishOk_failIe : (finishOk s).failIe = s.failIe := rfl
@[simp] theorem finishOk_cmpl : (finishOk s).cmpl = true := rfl
@[simp] theorem finishOk_fail : (finishOk s).fail = s.fail := rfl
@[simp] theorem finishOk_len : (finishOk s).len = s.len := rfl
@[simp] theorem finishOk_keylen : (finishOk s).keylen = s.keylen := rfl
@[simp] theorem finishOk_blkrem : (finishOk s).blkrem = s.blkrem := rfl
@[simp] theorem finishOk_din : (finishOk s).din = s.din := rfl
@[simp] theorem finishOk_dout : (finishOk s).dout = s.dout := rfl
@[simp] theorem finishOk_tag : (finishOk s).tag = s.tag := rfl
@[simp] theorem finishOk_tagin : (finishOk s).tagin = s.tagin := rfl
@[simp] theorem finishOk_secret : (finishOk s).secret = s.secret := rfl
@[simp] theorem finishOk_iv : (finishOk s).iv = s.iv := rfl
@[simp] theorem finishOk_wk : (finishOk s).wk = s.wk := rfl
@[simp] theorem finishOk_chain : (finishOk s).chain = s.chain := rfl
@[simp] theorem finishOk_buf : (finishOk s).buf = s.buf := rfl
@[simp] theorem finishOk_hmsg : (finishOk s).hmsg = s.hmsg := rfl
@[simp] theorem finishOk_mmsg : (finishOk s).mmsg = s.mmsg := rfl
@[simp] theorem finishOk_lastCnt : (finishOk s).lastCnt = s.lastCnt := rfl
@[simp] theorem finishOk_pend : (finishOk s).pend = none := rfl
@[simp] theorem finishOk_abrt : (finishOk s).abrt = false := rfl
@[simp] theorem finishOk_completing : (finishOk s).completing = s.completing := rfl
@[simp] theorem finishOk_inputs : (finishOk s).inputs = s.inputs := rfl
@[simp] theorem finishOk_reply : (finishOk s).reply = s.reply := rfl

/-! ## endStep -/

@[simp] theorem endStep_state : (endStep s).state = s.state := rfl
@[simp] theorem endStep_busy : (endStep s).busy = s.busy := rfl
@[simp] theorem endStep_dir : (endStep s).dir = s.dir := rfl
@[simp] theorem endStep_authOk : (endStep s).authOk = s.authOk := rfl
@[simp] theorem endStep_err : (endStep s).err = s.err := rfl
@[simp] theorem endStep_doutCnt : (endStep s).doutCnt = s.doutCnt := rfl
@[simp] theorem endStep_rem : (endStep s).rem = s.rem := rfl
@[simp] theorem endStep_ovr : (endStep s).ovr = s.ovr := rfl
@[simp] theorem endStep_cmplIe : (endStep s).cmplIe = s.cmplIe := rfl
@[simp] theorem endStep_failIe : (endStep s).failIe = s.failIe := rfl
@[simp] theorem endStep_cmpl : (endStep s).cmpl = s.cmpl := rfl
@[simp] theorem endStep_fail : (endStep s).fail = s.fail := rfl
@[simp] theorem endStep_len : (endStep s).len = s.len := rfl
@[simp] theorem endStep_keylen : (endStep s).keylen = s.keylen := rfl
@[simp] theorem endStep_blkrem : (endStep s).blkrem = s.blkrem := rfl
@[simp] theorem endStep_din : (endStep s).din = s.din := rfl
@[simp] theorem endStep_dout : (endStep s).dout = s.dout := rfl
@[simp] theorem endStep_tag : (endStep s).tag = s.tag := rfl
@[simp] theorem endStep_tagin : (endStep s).tagin = s.tagin := rfl
@[simp] theorem endStep_secret : (endStep s).secret = s.secret := rfl
@[simp] theorem endStep_iv : (endStep s).iv = s.iv := rfl
@[simp] theorem endStep_wk : (endStep s).wk = s.wk := rfl
@[simp] theorem endStep_chain : (endStep s).chain = s.chain := rfl
@[simp] theorem endStep_buf : (endStep s).buf = s.buf := rfl
@[simp] theorem endStep_hmsg : (endStep s).hmsg = s.hmsg := rfl
@[simp] theorem endStep_mmsg : (endStep s).mmsg = s.mmsg := rfl
@[simp] theorem endStep_lastCnt : (endStep s).lastCnt = s.lastCnt := rfl
@[simp] theorem endStep_pend : (endStep s).pend = s.pend := rfl
@[simp] theorem endStep_abrt : (endStep s).abrt = s.abrt := rfl
@[simp] theorem endStep_completing : (endStep s).completing = none := rfl
@[simp] theorem endStep_inputs : (endStep s).inputs = s.inputs := rfl
@[simp] theorem endStep_reply : (endStep s).reply = s.reply := rfl

/-! ## setCmpl -/

@[simp] theorem setCmpl_state : (setCmpl s).state = s.state := rfl
@[simp] theorem setCmpl_busy : (setCmpl s).busy = s.busy := rfl
@[simp] theorem setCmpl_dir : (setCmpl s).dir = s.dir := rfl
@[simp] theorem setCmpl_authOk : (setCmpl s).authOk = s.authOk := rfl
@[simp] theorem setCmpl_err : (setCmpl s).err = s.err := rfl
@[simp] theorem setCmpl_doutCnt : (setCmpl s).doutCnt = s.doutCnt := rfl
@[simp] theorem setCmpl_rem : (setCmpl s).rem = s.rem := rfl
@[simp] theorem setCmpl_ovr : (setCmpl s).ovr = s.ovr := rfl
@[simp] theorem setCmpl_cmplIe : (setCmpl s).cmplIe = s.cmplIe := rfl
@[simp] theorem setCmpl_failIe : (setCmpl s).failIe = s.failIe := rfl
@[simp] theorem setCmpl_cmpl : (setCmpl s).cmpl = true := rfl
@[simp] theorem setCmpl_fail : (setCmpl s).fail = s.fail := rfl
@[simp] theorem setCmpl_len : (setCmpl s).len = s.len := rfl
@[simp] theorem setCmpl_keylen : (setCmpl s).keylen = s.keylen := rfl
@[simp] theorem setCmpl_blkrem : (setCmpl s).blkrem = s.blkrem := rfl
@[simp] theorem setCmpl_din : (setCmpl s).din = s.din := rfl
@[simp] theorem setCmpl_dout : (setCmpl s).dout = s.dout := rfl
@[simp] theorem setCmpl_tag : (setCmpl s).tag = s.tag := rfl
@[simp] theorem setCmpl_tagin : (setCmpl s).tagin = s.tagin := rfl
@[simp] theorem setCmpl_secret : (setCmpl s).secret = s.secret := rfl
@[simp] theorem setCmpl_iv : (setCmpl s).iv = s.iv := rfl
@[simp] theorem setCmpl_wk : (setCmpl s).wk = s.wk := rfl
@[simp] theorem setCmpl_chain : (setCmpl s).chain = s.chain := rfl
@[simp] theorem setCmpl_buf : (setCmpl s).buf = s.buf := rfl
@[simp] theorem setCmpl_hmsg : (setCmpl s).hmsg = s.hmsg := rfl
@[simp] theorem setCmpl_mmsg : (setCmpl s).mmsg = s.mmsg := rfl
@[simp] theorem setCmpl_lastCnt : (setCmpl s).lastCnt = s.lastCnt := rfl
@[simp] theorem setCmpl_pend : (setCmpl s).pend = s.pend := rfl
@[simp] theorem setCmpl_abrt : (setCmpl s).abrt = s.abrt := rfl
@[simp] theorem setCmpl_completing : (setCmpl s).completing = s.completing := rfl
@[simp] theorem setCmpl_inputs : (setCmpl s).inputs = s.inputs := rfl
@[simp] theorem setCmpl_reply : (setCmpl s).reply = s.reply := rfl

/-! ## hold -/

@[simp] theorem hold_state : (hold i p s).state = s.state := rfl
@[simp] theorem hold_busy : (hold i p s).busy = true := rfl
@[simp] theorem hold_dir : (hold i p s).dir = s.dir := rfl
@[simp] theorem hold_authOk : (hold i p s).authOk = s.authOk := rfl
@[simp] theorem hold_err : (hold i p s).err = s.err := rfl
@[simp] theorem hold_doutCnt : (hold i p s).doutCnt = s.doutCnt := rfl
@[simp] theorem hold_rem : (hold i p s).rem = s.rem := rfl
@[simp] theorem hold_ovr : (hold i p s).ovr = s.ovr := rfl
@[simp] theorem hold_cmplIe : (hold i p s).cmplIe = s.cmplIe := rfl
@[simp] theorem hold_failIe : (hold i p s).failIe = s.failIe := rfl
@[simp] theorem hold_cmpl : (hold i p s).cmpl = s.cmpl := rfl
@[simp] theorem hold_fail : (hold i p s).fail = s.fail := rfl
@[simp] theorem hold_len : (hold i p s).len = s.len := rfl
@[simp] theorem hold_keylen : (hold i p s).keylen = s.keylen := rfl
@[simp] theorem hold_blkrem : (hold i p s).blkrem = s.blkrem := rfl
@[simp] theorem hold_din : (hold i p s).din = s.din := rfl
@[simp] theorem hold_dout : (hold i p s).dout = s.dout := rfl
@[simp] theorem hold_tag : (hold i p s).tag = s.tag := rfl
@[simp] theorem hold_tagin : (hold i p s).tagin = s.tagin := rfl
@[simp] theorem hold_secret : (hold i p s).secret = s.secret := rfl
@[simp] theorem hold_iv : (hold i p s).iv = s.iv := rfl
@[simp] theorem hold_wk : (hold i p s).wk = s.wk := rfl
@[simp] theorem hold_chain : (hold i p s).chain = s.chain := rfl
@[simp] theorem hold_buf : (hold i p s).buf = s.buf := rfl
@[simp] theorem hold_hmsg : (hold i p s).hmsg = s.hmsg := rfl
@[simp] theorem hold_mmsg : (hold i p s).mmsg = s.mmsg := rfl
@[simp] theorem hold_lastCnt : (hold i p s).lastCnt = s.lastCnt := rfl
@[simp] theorem hold_pend : (hold i p s).pend = some ⟨i, p⟩ := rfl
@[simp] theorem hold_abrt : (hold i p s).abrt = s.abrt := rfl
@[simp] theorem hold_completing : (hold i p s).completing = s.completing := rfl
@[simp] theorem hold_inputs : (hold i p s).inputs = s.inputs := rfl
@[simp] theorem hold_reply : (hold i p s).reply = s.reply := rfl

end Sys2Proof.Machine
end

