-- ==== Sys2Proof/Laws/Ops.lean ====
section
/-! SUPPORT. What each shared operation of Machine/Ops.lean can do, said once. -/

namespace Sys2Proof.Machine

open Sys2Proof

/-- While BUSY, a presented command only sets ABRT or OVR (R158, R160). -/
theorem acceptThen_of_busy {i : Instr} {s : State} {go : Snap → State} (h : s.busy = true) :
    acceptThen i s go = whileBusy (i == .abort) s := by
  simp [acceptThen, h]

/-- A well-formed command, legal in the state of an AEO that is not BUSY, is run on its snapshot. -/
theorem acceptThen_of_legal {i : Instr} {s : State} {go : Snap → State} (hb : s.busy = false)
    (hw : i.wf = true) (hl : legal i s.state = true) : acceptThen i s go = go (snapshot s) := by
  simp [acceptThen, hb, hw, hl]

/-- A command with a count above 16 is an illegal word (R114). -/
theorem acceptThen_of_illFormed {i : Instr} {s : State} {go : Snap → State} (hb : s.busy = false)
    (hw : i.wf = false) : acceptThen i s go = raiseError .illegalCmd s := by
  simp [acceptThen, hb, hw]

/-- A well-formed command in a state where it is not legal raises BAD_STATE (R155). -/
theorem acceptThen_of_notLegal {i : Instr} {s : State} {go : Snap → State} (hb : s.busy = false)
    (hw : i.wf = true) (hl : legal i s.state = false) :
    acceptThen i s go = raiseError .badState s := by
  simp [acceptThen, hb, hw, hl]

/-- All that acceptance can do (R150). -/
theorem acceptThen_cases (i : Instr) (s : State) (go : Snap → State) :
    (s.busy = true ∧ acceptThen i s go = whileBusy (i == .abort) s) ∨
    (s.busy = false ∧ i.wf = false ∧ acceptThen i s go = raiseError .illegalCmd s) ∨
    (s.busy = false ∧ i.wf = true ∧ legal i s.state = false ∧
      acceptThen i s go = raiseError .badState s) ∨
    (s.busy = false ∧ i.wf = true ∧ legal i s.state = true ∧
      acceptThen i s go = go (snapshot s)) := by
  cases hb : s.busy
  · cases hw : i.wf
    · exact .inr (.inl ⟨rfl, rfl, acceptThen_of_illFormed hb hw⟩)
    · cases hl : legal i s.state
      · exact .inr (.inr (.inl ⟨rfl, rfl, rfl, acceptThen_of_notLegal hb hw hl⟩))
      · exact .inr (.inr (.inr ⟨rfl, rfl, rfl, acceptThen_of_legal hb hw hl⟩))
  · exact .inl ⟨rfl, acceptThen_of_busy hb⟩

/-- All that a completion can do, in R307's order (R151). -/
theorem complete_cases (anyCall pf : Bool) (perform : State → Performed) (s : State) :
    (s.abrt = true ∧
      complete anyCall pf perform s = endStep (finishOk (abortActions s))) ∨
    (s.abrt = false ∧ s.ovr = true ∧
      complete anyCall pf perform s = endStep (raiseError .overrun s)) ∨
    (s.abrt = false ∧ s.ovr = false ∧ anyCall = true ∧ pf = true ∧
      complete anyCall pf perform s = endStep (raiseError .primFail s)) ∨
    (s.abrt = false ∧ s.ovr = false ∧ (anyCall && pf) = false ∧
      ∃ t, perform s = .ok t ∧
        complete anyCall pf perform s = endStep (finishOk t)) ∨
    (s.abrt = false ∧ s.ovr = false ∧ (anyCall && pf) = false ∧
      ∃ e, perform s = .error e ∧
        complete anyCall pf perform s = endStep (raiseError e s)) := by
  cases ha : s.abrt
  · cases ho : s.ovr
    · cases hc : anyCall && pf
      · cases hp : perform s with
        | ok t =>
          exact .inr (.inr (.inr (.inl ⟨rfl, rfl, rfl, t, rfl, by simp [complete, ha, ho, hc, hp]⟩)))
        | error e =>
          exact .inr (.inr (.inr (.inr ⟨rfl, rfl, rfl, e, rfl, by simp [complete, ha, ho, hc, hp]⟩)))
      · obtain ⟨h1, h2⟩ := Bool.and_eq_true_iff.mp hc
        exact .inr (.inr (.inl ⟨rfl, rfl, h1, h2, by simp [complete, ha, ho, hc]⟩))
    · exact .inr (.inl ⟨rfl, rfl, by simp [complete, ha, ho]⟩)
  · exact .inl ⟨rfl, by simp [complete, ha]⟩

/-- A completion with nothing pending against it commits what `perform` returns (R151). -/
theorem complete_ok {anyCall pf : Bool} {perform : State → Performed} {s t : State}
    (ha : s.abrt = false) (ho : s.ovr = false) (hc : (anyCall && pf) = false)
    (hp : perform s = .ok t) :
    complete anyCall pf perform s = endStep (finishOk t) := by
  simp [complete, ha, ho, hc, hp]

/-- A completion with nothing pending against it raises the error that `perform` raises (R151). -/
theorem complete_error {anyCall pf : Bool} {perform : State → Performed} {s : State} {e : ErrCode}
    (ha : s.abrt = false) (ho : s.ovr = false) (hc : (anyCall && pf) = false)
    (hp : perform s = .error e) :
    complete anyCall pf perform s = endStep (raiseError e s) := by
  simp [complete, ha, ho, hc, hp]

/-- Outside a completion step every command is presented, none completed. -/
@[simp] theorem completionOf_none {i : Instr} {s : State} (h : s.completing = none) :
    completionOf i s = none := by
  simp [completionOf, h]

/-- In a completion step with the command i pending, i is completed on its snapshot. -/
@[simp] theorem completionOf_pending {i : Instr} {p : Snap} {pf : Bool} {s : State}
    (hc : s.completing = some pf) (hp : s.pend = some ⟨i, p⟩) :
    completionOf i s = some (pf, p) := by
  simp [completionOf, hc, hp]

/-- A busy-class command outside a completion step is accepted into PEND (R150). -/
theorem busyClass_presented {i : Instr} {f : Snap → State → Performed} {s : State}
    (h : s.completing = none) :
    busyClass i f s = .next (acceptThen i s fun p => hold i p s) := by
  simp [busyClass, h]

/-- A busy-class command in its completion step completes (R151). -/
theorem busyClass_completes {i : Instr} {f : Snap → State → Performed} {p : Snap} {pf : Bool}
    {s : State} (hc : s.completing = some pf) (hp : s.pend = some ⟨i, p⟩) :
    busyClass i f s = .next (complete (!(calls Config.params i p s).isEmpty) pf (f p) s) := by
  simp [busyClass, completionOf_pending hc hp]

/-- Every immediate-class command answers a next state. -/
theorem immediate_next (i : Instr) (f : Snap → State → Performed) (s : State) :
    ∃ t, immediate i f s = .next t := ⟨_, rfl⟩

/-- Every busy-class command answers a next state. -/
theorem busyClass_next (i : Instr) (f : Snap → State → Performed) (s : State) :
    ∃ t, busyClass i f s = .next t := by
  unfold busyClass
  split <;> exact ⟨_, rfl⟩

/-- Every busy-class command but NAME_APPEND 0 makes a collaborator call (R189). -/
theorem calls_isEmpty {P : Config.Params} {i : Instr} {p : Snap} {s : State} (h : i.class = .busy) :
    (calls P i p s).isEmpty = true ↔ i = .nameAppend 0#5 := by
  cases i <;> simp [calls, Instr.class] at h ⊢

/-- The immediate-class commands make no collaborator call (R112, R189). -/
theorem calls_immediate {P : Config.Params} {i : Instr} {p : Snap} {s : State}
    (h : i.class = .immediate) : calls P i p s = [] := by
  cases i <;> simp [calls, Instr.class] at h ⊢

end Sys2Proof.Machine
end

