-- ==== Sys2Proof/Laws/Step.lean ====
section
/-! SUPPORT. What each action of the outside world does in one step, said once. -/

namespace Sys2Proof.Machine

open Sys2Proof

/-- With no action left, nothing changes (R318). -/
theorem step_idle {s : State} (h : s.inputs = []) : step s = .next s := by
  simp [step, runInput, h]

/-- With an action first in the list, one step applies it. -/
theorem step_input {s : State} {a : Input} {rest : List Input} (h : s.inputs = a :: rest) :
    step s = applyInput a { s with inputs := rest, completing := none } := by
  simp [step, runInput, h]

/-- A host read changes the reply only (R94). -/
theorem applyInput_read (off : BitVec 8) (w : Width) (s : State) :
    applyInput (.read off w) s = .next (answer (readReply s off w) s) := rfl

/-- A reset gives the reset state (R340). -/
theorem applyInput_reset (s : State) : applyInput .reset s = .next (resetAll s) := rfl

/-- A write that the access decode refuses changes the reply only (R92). -/
theorem hostWrite_error {off : BitVec 8} {w : Width} {data : BitVec 64} {s : State} {f : Fault}
    (h : permitted off w = .error f) :
    hostWrite off w data s = .next (answer (.error f) s) := by
  simp [hostWrite, h]

/-- A write to CMD presents its word (R34, R150). -/
theorem hostWrite_cmd {off : BitVec 8} {w : Width} {data : BitVec 64} {s : State}
    (h : permitted off w = .ok .cmd) :
    hostWrite off w data s = present (data.setWidth 32) (answer .ack s) := by
  simp [hostWrite, h]

/-- A write to any other register writes that register (R94). -/
theorem hostWrite_reg {off : BitVec 8} {w : Width} {data : BitVec 64} {s : State} {r : Reg}
    (h : permitted off w = .ok r) (hr : r ≠ .cmd) :
    hostWrite off w data s = .next (answer .ack (writeReg s r (data.setWidth 32))) := by
  cases r <;> simp_all [hostWrite]

/-- The completion step runs the pending command (R151). -/
theorem sequencerStep_busy {pf : Bool} {s : State} {p : Pending} (hb : s.busy = true)
    (hp : s.pend = some p) :
    sequencerStep pf s = exec p.cmd { s with completing := some pf } := by
  simp [sequencerStep, hb, hp]

/-- With BUSY = 0 there is no completion step (R151, R318). -/
theorem sequencerStep_notBusy {pf : Bool} {s : State} (hb : s.busy = false) :
    sequencerStep pf s = .next s := by
  simp [sequencerStep, hb]

/-- Every command answers a next state. -/
theorem exec_next (i : Instr) (s : State) : ∃ t, exec i s = .next t := by
  cases i
  case abort => exact immediate_next .abort performAbort s
  case keyClear => exact immediate_next .keyClear performKeyClear s
  case keyAppend n => exact immediate_next (.keyAppend n) (performKeyAppend _ n) s
  case decStart => exact immediate_next .decStart performDecStart s
  all_goals exact busyClass_next _ _ s

/-- Every word presented to CMD answers a next state. -/
theorem present_next (w : Word) (s : State) : ∃ t, present w s = .next t := by
  unfold present
  split
  · exact ⟨_, rfl⟩
  · split
    · exact exec_next _ _
    · exact ⟨_, rfl⟩

end Sys2Proof.Machine
end

