-- ==== Sys2Proof/Laws/Frame.lean ====
section
/-! SUPPORT. What no command ever writes: the host's operand registers DIN, TAGIN and LEN and the
enables INT_EN (R48, R51, R54, R154, R305), and the model's inputs and reply. -/

namespace Sys2Proof.Machine

open Sys2Proof

/-- The two states agree on what no command writes. -/
def HostPartSame (s t : State) : Prop :=
  t.din = s.din ∧ t.tagin = s.tagin ∧ t.len = s.len ∧ t.cmplIe = s.cmplIe ∧ t.failIe = s.failIe ∧
    t.inputs = s.inputs ∧ t.reply = s.reply

theorem HostPartSame.refl (s : State) : HostPartSame s s := ⟨rfl, rfl, rfl, rfl, rfl, rfl, rfl⟩

theorem raiseError_hostPart (c : ErrCode) (s : State) : HostPartSame s (raiseError c s) :=
  ⟨rfl, rfl, rfl, rfl, rfl, rfl, rfl⟩

theorem whileBusy_hostPart (b : Bool) (s : State) : HostPartSame s (whileBusy b s) := by
  cases b <;> exact ⟨rfl, rfl, rfl, rfl, rfl, rfl, rfl⟩

/-- Acceptance keeps the host's part if what it runs does. -/
theorem acceptThen_hostPart {i : Instr} {s : State} {go : Snap → State}
    (hg : ∀ p, HostPartSame s (go p)) : HostPartSame s (acceptThen i s go) := by
  rcases acceptThen_cases i s go with ⟨_, h⟩ | ⟨_, _, h⟩ | ⟨_, _, _, h⟩ | ⟨_, _, _, h⟩ <;> rw [h]
  · exact whileBusy_hostPart _ s
  · exact raiseError_hostPart _ s
  · exact raiseError_hostPart _ s
  · exact hg _

/-- An immediate-class command keeps the host's part if its `perform` does. -/
theorem immediate_hostPart {i : Instr} {f : Snap → State → Performed} {s t : State}
    (hf : ∀ p s u, f p s = .ok u → HostPartSame s u) (h : immediate i f s = .next t) :
    HostPartSame s t := by
  cases h
  apply acceptThen_hostPart
  intro p
  cases hp : f p s with
  | ok u => exact (hf p s u hp : HostPartSame s u)
  | error e => exact raiseError_hostPart e s

/-- A completion keeps the host's part if its `perform` does. -/
theorem complete_hostPart {b pf : Bool} {f : State → Performed} {s : State}
    (hf : ∀ u, f s = .ok u → HostPartSame s u) : HostPartSame s (complete b pf f s) := by
  rcases complete_cases b pf f s with ⟨_, h⟩ | ⟨_, _, h⟩ | ⟨_, _, _, _, h⟩ |
    ⟨_, _, _, u, hu, h⟩ | ⟨_, _, _, e, _, h⟩ <;> rw [h]
  · exact HostPartSame.refl s
  · exact raiseError_hostPart .overrun s
  · exact raiseError_hostPart .primFail s
  · exact (hf u hu : HostPartSame s u)
  · exact raiseError_hostPart e s

/-- A busy-class command keeps the host's part if its `perform` does. -/
theorem busyClass_hostPart {i : Instr} {f : Snap → State → Performed} {s t : State}
    (hf : ∀ p s u, f p s = .ok u → HostPartSame s u) (h : busyClass i f s = .next t) :
    HostPartSame s t := by
  unfold busyClass at h
  split at h <;> cases h
  · exact complete_hostPart fun u hu => hf _ s u hu
  · exact acceptThen_hostPart fun p => HostPartSame.refl s

theorem performDecStart_hostPart (p : Snap) (s u : State) (h : performDecStart p s = .ok u) :
    HostPartSame s u := by
  unfold performDecStart at h
  split at h <;> cases h
  exact HostPartSame.refl s

theorem performKeyAppend_hostPart (m : Nat) (n : BitVec 5) (p : Snap) (s u : State)
    (h : performKeyAppend m n p s = .ok u) : HostPartSame s u := by
  unfold performKeyAppend at h
  split at h <;> cases h
  exact HostPartSame.refl s

theorem performEncBlock_hostPart (P : Config.Params) (p : Snap) (s u : State)
    (h : performEncBlock P p s = .ok u) : HostPartSame s u := by
  unfold performEncBlock at h
  dsimp only at h
  split at h <;> cases h <;> exact HostPartSame.refl s

theorem performTagCheck_hostPart (P : Config.Params) (p : Snap) (s u : State)
    (h : performTagCheck P p s = .ok u) : HostPartSame s u := by
  unfold performTagCheck at h
  split at h <;> cases h
  exact HostPartSame.refl s

/-- No command writes the host's part. -/
theorem exec_hostPart {i : Instr} {s t : State} (h : exec i s = .next t) : HostPartSame s t := by
  cases i with
  | abort =>
    exact immediate_hostPart (i := .abort) (f := performAbort)
      (fun _ s _ h => by cases h; exact HostPartSame.refl s) h
  | keyClear =>
    exact immediate_hostPart (i := .keyClear) (f := performKeyClear)
      (fun _ s _ h => by cases h; exact HostPartSame.refl s) h
  | keyAppend n => exact immediate_hostPart (performKeyAppend_hostPart _ n) h
  | decStart => exact immediate_hostPart performDecStart_hostPart h
  | encStart => exact busyClass_hostPart (fun _ s _ h => by cases h; exact HostPartSame.refl s) h
  | nameAppend n =>
    exact busyClass_hostPart (fun _ s _ h => by cases h; exact HostPartSame.refl s) h
  | ivGen => exact busyClass_hostPart (fun _ s _ h => by cases h; exact HostPartSame.refl s) h
  | encBlock => exact busyClass_hostPart (performEncBlock_hostPart _) h
  | ivLoad => exact busyClass_hostPart (fun _ s _ h => by cases h; exact HostPartSame.refl s) h
  | decBlock => exact busyClass_hostPart (fun _ s _ h => by cases h; exact HostPartSame.refl s) h
  | tagCheck => exact busyClass_hostPart (performTagCheck_hostPart _) h

/-- No word presented to CMD writes the host's part. -/
theorem present_hostPart {w : Word} {s t : State} (h : present w s = .next t) :
    HostPartSame s t := by
  unfold present at h
  split at h
  · cases h
    exact whileBusy_hostPart _ s
  · split at h
    · exact exec_hostPart h
    · cases h
      exact raiseError_hostPart _ s

end Sys2Proof.Machine
end

