-- ==== Sys2Proof/Laws/Window.lean ====
section
/-! SUPPORT. The window's address decode and the access types of its registers, said once. -/

namespace Sys2Proof.Machine

open Sys2Proof

/-- The address decode finds every register at its offset (R32). -/
@[simp] theorem regAt_offset (r : Reg) : regAt r.offset = some r := by
  cases r with
  | din j => revert j; decide
  | dout j => revert j; decide
  | tag j => revert j; decide
  | tagin j => revert j; decide
  | _ => decide

/-- A 32-bit access at a register's offset is permitted (R92). -/
@[simp] theorem permitted_offset (r : Reg) : permitted r.offset .w32 = .ok r := by
  simp [permitted]

/-- An access of another width is refused (R92). -/
theorem permitted_width {off : BitVec 8} {w : Width} (h : w ≠ .w32) :
    permitted off w = .error .busError := by
  simp [permitted, h]

/-- An access of n bytes is one of 32 bits exactly when n is 4 (R92; log entry 25). -/
@[simp] theorem widthOfBytes_eq_w32 (n : Nat) : widthOfBytes n = .w32 ↔ n = 4 := by
  unfold widthOfBytes
  repeat' split
  all_goals simp_all

/-- An access of another number of bytes than 4 is refused (R92). -/
theorem permitted_widthOfBytes {off : BitVec 8} {n : Nat} (h : n ≠ 4) :
    permitted off (widthOfBytes n) = .error .busError :=
  permitted_width (by simp [h])

/-- A permitted access is a 32-bit access at the offset of the register it names (R32, R92). -/
theorem permitted_ok {off : BitVec 8} {w : Width} {r : Reg} (h : permitted off w = .ok r) :
    w = .w32 ∧ regAt off = some r := by
  unfold permitted at h
  split at h
  · split at h <;> simp_all
  · simp at h

/-- Write-only registers read 0 (R31). -/
theorem readReg_wo {s : State} {r : Reg} (h : r.access = .wo) : readReg s r = 0#32 := by
  cases r <;> simp [Reg.access] at h <;> rfl

/-- Read-only registers ignore writes (R31). -/
theorem writeReg_ro {s : State} {r : Reg} {w : Word} (h : r.access = .ro) : writeReg s r w = s := by
  cases r <;> simp [Reg.access] at h <;> rfl

end Sys2Proof.Machine
end

