-- ==== Sys2Proof/Laws/Inversion.lean ====
section
/-! SUPPORT. What `exec` and `step` can do at all, said once: a command presented to an AEO that is not
BUSY, a command in its completion step, and the six kinds of step. -/

namespace Sys2Proof.Machine

open Sys2Proof Sys2Proof.Safety

/-- A busy-class command in its completion step is `complete` on its `perform` (R151). -/
theorem exec_completes {i : Instr} {s : State} {p : Snap} {pf : Bool} (h : i.class = .busy)
    (hc : s.completing = some pf) (hp : s.pend = some ⟨i, p⟩) :
    exec i s = .next (complete (!(calls Config.params i p s).isEmpty) pf
      (perform Config.params i p) s) := by
  cases i <;> first
    | (cases h; done)
    | exact busyClass_completes hc hp

/-- A busy-class command outside a completion step is accepted into PEND, or rejected (R150). -/
theorem exec_busyClass_presented {i : Instr} {s : State} (h : i.class = .busy)
    (hc : s.completing = none) :
    exec i s = .next (acceptThen i s fun p => hold i p s) := by
  cases i <;> first
    | (cases h; done)
    | exact busyClass_presented hc

/-- An immediate-class command performs within its acceptance step (R150, R151). -/
theorem exec_immediate {i : Instr} (s : State) (h : i.class = .immediate) :
    exec i s = .next (acceptThen i s fun p => commit s (perform Config.params i p s)) := by
  cases i <;> first
    | (cases h; done)
    | rfl

/-- All that a command presented with BUSY = 0 can do (R150). -/
theorem exec_presented_cases {i : Instr} {s t : State} (hc : s.completing = none)
    (hb : s.busy = false) (h : exec i s = .next t) :
    (i.wf = false ∧ t = raiseError .illegalCmd s) ∨
    (i.wf = true ∧ legal i s.state = false ∧ t = raiseError .badState s) ∨
    (i.wf = true ∧ legal i s.state = true ∧ i.class = .busy ∧ t = hold i (snapshot s) s) ∨
    (i.wf = true ∧ legal i s.state = true ∧ i.class = .immediate ∧
      t = commit s (perform Config.params i (snapshot s) s)) := by
  cases hk : i.class
  · rw [exec_immediate s hk] at h
    cases h
    rcases acceptThen_cases i s (fun p => commit s (perform Config.params i p s)) with
      ⟨h1, _⟩ | ⟨_, h2, h⟩ | ⟨_, h2, h3, h⟩ | ⟨_, h2, h3, h⟩
    · rw [hb] at h1; cases h1
    · exact .inl ⟨h2, h⟩
    · exact .inr (.inl ⟨h2, h3, h⟩)
    · exact .inr (.inr (.inr ⟨h2, h3, rfl, h⟩))
  · rw [exec_busyClass_presented hk hc] at h
    cases h
    rcases acceptThen_cases i s (fun p => hold i p s) with
      ⟨h1, _⟩ | ⟨_, h2, h⟩ | ⟨_, h2, h3, h⟩ | ⟨_, h2, h3, h⟩
    · rw [hb] at h1; cases h1
    · exact .inl ⟨h2, h⟩
    · exact .inr (.inl ⟨h2, h3, h⟩)
    · exact .inr (.inr (.inl ⟨h2, h3, rfl, h⟩))

/-- No `perform` raises the code NONE. -/
theorem perform_error {P : Config.Params} {i : Instr} {p : Snap} {s : State} {e : ErrCode}
    (h : perform P i p s = .error e) : e ≠ .none := by
  cases i <;>
    simp only [perform, performAbort, performKeyClear, performKeyAppend, performEncStart,
      performNameAppend, performIvGen, performEncBlock, performDecStart, performIvLoad,
      performDecBlock, performTagCheck] at h <;>
    (repeat' split at h) <;> cases h <;> simp

/-- A register write reaches only the operand and interrupt registers (R31). -/
theorem writeReg_reaches (s : State) (r : Reg) (w : Word) :
    ∃ din tagin len cmplIe failIe cmpl fail,
      writeReg s r w = { s with
        din := din, tagin := tagin, len := len, cmplIe := cmplIe, failIe := failIe,
        cmpl := cmpl, fail := fail } := by
  cases r <;> exact ⟨_, _, _, _, _, _, _, rfl⟩

/-- The offset of CMD (R32). -/
theorem regAt_cmd {off : BitVec 8} (h : regAt off = some .cmd) : off = 0x04#8 := by
  have all : ∀ o : BitVec 8, (regAt o == some .cmd) = true → o = 0x04#8 := by decide
  exact all off (by simp [h])

/-- All that a step can do. -/
theorem step_cases {s t : State} (h : step s = .next t) :
    (s.inputs = [] ∧ t = s) ∨
    (∃ rest r, t = { s with inputs := rest, completing := none, reply := r }) ∨
    (∃ rest, s.inputs = .reset :: rest ∧ t = { State.reset with inputs := rest }) ∨
    (∃ rest off data r, s.inputs = .write off .w32 data :: rest ∧ regAt off = some r ∧ r ≠ .cmd ∧
      t = answer .ack
        (writeReg { s with inputs := rest, completing := none } r (data.setWidth 32))) ∨
    (∃ rest data, s.inputs = .write 0x04#8 .w32 data :: rest ∧
      present (data.setWidth 32) { s with inputs := rest, completing := none, reply := .ack } =
        .next t) ∨
    (∃ rest pf p, s.inputs = .complete pf :: rest ∧ s.busy = true ∧ s.pend = some p ∧
      exec p.cmd { s with inputs := rest, completing := some pf } = .next t) := by
  cases hi : s.inputs with
  | nil =>
    rw [step_idle hi] at h
    cases h
    exact .inl ⟨rfl, rfl⟩
  | cons a rest =>
    refine .inr ?_
    rw [step_input hi] at h
    cases a with
    | read off w => cases h; exact .inl ⟨rest, _, rfl⟩
    | reset => cases h; exact .inr (.inl ⟨rest, rfl, rfl⟩)
    | complete pf =>
      simp only [applyInput, sequencerStep] at h
      split at h
      · rename_i p hb hp
        exact .inr (.inr (.inr (.inr ⟨rest, pf, p, rfl, hb, hp, h⟩)))
      · cases h
        exact .inl ⟨rest, s.reply, rfl⟩
    | write off w data =>
      simp only [applyInput, hostWrite] at h
      split at h
      · rename_i hp
        obtain ⟨rfl, hr⟩ := permitted_ok hp
        obtain rfl := regAt_cmd hr
        exact .inr (.inr (.inr (.inl ⟨rest, data, rfl, h⟩)))
      · rename_i r hne hp
        obtain ⟨rfl, hr⟩ := permitted_ok hp
        cases h
        exact .inr (.inr (.inl ⟨rest, off, data, r, rfl, hr, fun he => hne he, rfl⟩))
      · cases h
        exact .inl ⟨rest, _, rfl⟩

end Sys2Proof.Machine
end

