-- ==== Sys2Proof/Laws/Software.lean ====
section
/-! SUPPORT. What the turns of a host program do: every turn answers a next state, a WAIT reads STATUS
until BUSY reads 0 and never ends while the command does not complete, and GETDOUT takes the first
DOUT_CNT bytes of DOUT (30_encoding.md R119; 70_reset_and_hazards.md R355). -/

namespace Sys2Proof.Machine

open Sys2Proof

/-! ## The words a program reads -/

@[simp] theorem busyRead_statusWord (s : State) : busyRead s.statusWord = s.busy := by
  simp only [busyRead, State.statusWord, bit, BitVec.getLsbD_append]
  simp

@[simp] theorem doutCntRead_statusWord (s : State) :
    doutCntRead s.statusWord = s.doutCnt.toNat := by
  unfold doutCntRead
  congr 1
  apply BitVec.eq_of_getLsbD_eq
  intro i hi
  have : i = 0 ∨ i = 1 ∨ i = 2 ∨ i = 3 ∨ i = 4 := by omega
  rcases this with rfl | rfl | rfl | rfl | rfl <;>
    simp only [State.statusWord, bit, BitVec.getLsbD_extractLsb', BitVec.getLsbD_append] <;> simp

/-- The lanes of a word made of four bytes (R90). -/
theorem bytesOfWord_wordOfBytes (a b c d : Byte) :
    bytesOfWord (wordOfBytes a b c d) = [a, b, c, d] := by
  simp only [bytesOfWord, byteOfWord, wordOfBytes, List.cons.injEq, and_true]
  refine ⟨?_, ?_, ?_, ?_⟩ <;>
    · apply BitVec.eq_of_getLsbD_eq
      intro i hi
      have : i = 0 ∨ i = 1 ∨ i = 2 ∨ i = 3 ∨ i = 4 ∨ i = 5 ∨ i = 6 ∨ i = 7 := by omega
      rcases this with rfl | rfl | rfl | rfl | rfl | rfl | rfl | rfl <;>
        simp only [BitVec.getLsbD_extractLsb', BitVec.getLsbD_append] <;> simp

/-- The four registers of DOUT, read in order, are its bytes (R52, R90). -/
theorem bytesRead_dout (b : Block) :
    bytesRead [readLanes b 0, readLanes b 1, readLanes b 2, readLanes b 3] = b.toList := by
  have h : ∀ l : Bytes, l.length = 16 → (List.range 16).map (byteAt l) = l := by
    intro l hl
    apply List.ext_getElem
    · simp [hl]
    · intro k _ h2
      simp [byteAt, List.getD, List.getElem?_eq_getElem h2]
  simp only [bytesRead, readLanes, List.flatMap_cons, List.flatMap_nil, bytesOfWord_wordOfBytes]
  exact h b.toList (Vector.length_toList ..)

/-! ## Turns -/

/-- A step with `a` next applies `a`. -/
theorem step_pushInput (s : State) (a : Input) :
    step (pushInput s a) = applyInput a { s with completing := none } := rfl

/-- Every action of the outside world leaves the AEO in a next state. -/
theorem step_pushInput_next (s : State) (a : Input) : ∃ t, step (pushInput s a) = .next t := by
  rw [step_pushInput]
  cases a with
  | read off w => exact ⟨_, rfl⟩
  | reset => exact ⟨_, rfl⟩
  | complete pf =>
    simp only [applyInput, sequencerStep]
    split
    · exact exec_next _ _
    · exact ⟨_, rfl⟩
  | write off w data =>
    simp only [applyInput, hostWrite]
    split
    · exact present_next _ _
    · exact ⟨_, rfl⟩
    · exact ⟨_, rfl⟩

/-- RD of a register answers its value and changes nothing else (R94, R118). -/
theorem step_hostRd (s : State) (r : Reg) :
    step (pushInput s (hostRd r)) =
      .next { s with completing := none, reply := .data (readReg s r) } := by
  have hr : readReg { s with completing := none } r = readReg s r := by cases r <;> rfl
  simp only [step_pushInput, hostRd, applyInput_read, readReply, permitted_offset, hr]
  rfl

/-- Every turn of every program answers a next state. -/
theorem turn_next (x : Turn) (h : HostProgram) (s : State) : ∃ g t, turn x h s = .next (g, t) := by
  have act : ∀ a k, ∃ g t, actThen a s k = .next (g, t) := by
    intro a k
    obtain ⟨t, ht⟩ := step_pushInput_next s a
    exact ⟨k t, t, by simp [actThen, ht]⟩
  cases x with
  | world a => exact act a _
  | host =>
    cases hn : h.next with
    | none => exact ⟨h, s, by simp [turn, hn]⟩
    | some a => simpa [turn, hn] using act a _

/-- The first turn of an interleaving, and then the others. -/
theorem runTurns_cons {x : Turn} {xs : List Turn} {h g : HostProgram} {s t : State}
    (hx : turn x h s = .next (g, t)) : runTurns (x :: xs) h s = runTurns xs g t := by
  simp [runTurns, hx]

/-- So every interleaving runs to its end. -/
theorem runTurns_next (xs : List Turn) (h : HostProgram) (s : State) :
    ∃ g t, runTurns xs h s = .next (g, t) := by
  induction xs generalizing h s with
  | nil => exact ⟨h, s, rfl⟩
  | cons x xs ih =>
    obtain ⟨g, t, hx⟩ := turn_next x h s
    simpa [runTurns_cons hx] using ih g t

/-- The host's turn on a program whose next access is RD r. -/
theorem turn_hostRd {h : HostProgram} {r : Reg} (s : State) (hn : h.next = some (hostRd r)) :
    turn .host h s =
      .next ((h.note (hostRd r) (.data (readReg s r))).advance,
        { s with completing := none, reply := .data (readReg s r) }) := by
  simp [turn, hn, actThen, step_hostRd]

/-! ## WAIT -/

/-- A round of WAIT: RD STATUS; with BUSY = 1 the WAIT starts over, and with BUSY = 0 it ends, its
result being the word read (R119). -/
theorem turn_wait (rest : List HostOp) (status : Word) (results : List HostResult) (s : State) :
    turn .host { ops := .wait :: rest, made := 0, words := [], status, results } s =
      .next
        (if s.busy then
          { ops := .wait :: rest, made := 0, words := [], status := s.statusWord, results }
        else
          { ops := rest, made := 0, words := [], status := s.statusWord
            results := results ++ [.words [s.statusWord]] },
        { s with completing := none, reply := .data s.statusWord }) := by
  rw [turn_hostRd (r := .status) s rfl]
  cases hb : s.busy <;>
    simp [HostProgram.note, HostProgram.advance, HostOp.accesses, hostWait, readReg, hb,
      HostOp.result]

/-- A turn that is neither the completion of a command nor a reset. -/
def Turn.Unanswered (x : Turn) : Prop :=
  x ≠ .world .reset ∧ ∀ pf, x ≠ .world (.complete pf)

/-- A register write leaves BUSY (R31). -/
theorem writeReg_busy (s : State) (r : Reg) (w : Word) : (writeReg s r w).busy = s.busy := by
  obtain ⟨_, _, _, _, _, _, _, h⟩ := writeReg_reaches s r w
  rw [h]

/-- A CMD write while BUSY leaves BUSY (R158, R160). -/
theorem whileBusy_busy (b : Bool) (s : State) : (whileBusy b s).busy = s.busy := by
  cases b <;> rfl

/-- A word presented while BUSY leaves BUSY (R158, R160). -/
theorem present_keeps_busy {w : Word} {s t : State} (hb : s.busy = true)
    (h : present w s = .next t) : t.busy = true := by
  rw [present, if_pos hb] at h
  injection h with h
  rw [← h, whileBusy_busy, hb]

/-- Only a completion or a reset ends BUSY (R37, R355). -/
theorem applyInput_keeps_busy {s t : State} {a : Input} (hb : s.busy = true) (hr : a ≠ .reset)
    (hc : ∀ pf, a ≠ .complete pf) (h : applyInput a s = .next t) : t.busy = true := by
  cases a with
  | read off w =>
    cases h
    exact hb
  | reset => exact absurd rfl hr
  | complete pf => exact absurd rfl (hc pf)
  | write off w data =>
    simp only [applyInput, hostWrite] at h
    split at h
    · exact present_keeps_busy (s := answer .ack s) hb h
    · cases h
      exact (writeReg_busy _ _ _).trans hb
    · cases h
      exact hb

/-- A WAIT never ends while no completion and no reset comes, however many rounds the host makes and
whatever else happens between them (R119, R355). -/
theorem wait_never_ends (xs : List Turn) (hx : ∀ x ∈ xs, x.Unanswered) (rest : List HostOp)
    (status : Word) (results : List HostResult) (s : State) (hb : s.busy = true) :
    ∃ status' t,
      runTurns xs { ops := .wait :: rest, made := 0, words := [], status, results } s =
        .next ({ ops := .wait :: rest, made := 0, words := [], status := status', results }, t) ∧
      t.busy = true := by
  induction xs generalizing status s with
  | nil => exact ⟨status, s, rfl, hb⟩
  | cons x xs ih =>
    have hx' := fun y hy => hx y (List.mem_cons_of_mem x hy)
    have hx0 := hx x List.mem_cons_self
    cases x with
    | host =>
      have ht := turn_wait rest status results s
      rw [if_pos hb] at ht
      simp only [runTurns, ht]
      exact ih hx' _ { s with completing := none, reply := .data s.statusWord } hb
    | world a =>
      obtain ⟨t, ha⟩ := step_pushInput_next s a
      have hbt := applyInput_keeps_busy (s := { s with completing := none }) hb
        (fun e => hx0.1 (congrArg _ e)) (fun pf e => hx0.2 pf (congrArg _ e))
        ha
      simp only [runTurns, turn, actThen, ha]
      exact ih hx' _ _ hbt

/-! ## GETDOUT -/

/-- The host's turn j of GETDOUT reads DOUTj, and the last one takes the bytes (R119). -/
theorem turn_getDout (j : Fin 4) (rest : List HostOp) (words : List Word) (status : Word)
    (results : List HostResult) (s : State) :
    turn .host { ops := .getDout :: rest, made := j.val, words, status, results } s =
      .next
        (if j.val < 3 then
          { ops := .getDout :: rest, made := j.val + 1, words := words ++ [readLanes s.dout j.val]
            status, results }
        else
          { ops := rest, made := 0, words := [], status
            results := results ++ [.bytes (takeDout status (words ++ [readLanes s.dout j.val]))] },
        { s with completing := none, reply := .data (readLanes s.dout j.val) }) := by
  have hn : ∀ h : HostProgram, h.ops = .getDout :: rest → h.made = j.val →
      h.next = some (hostRd (.dout j)) := by
    intro h ho hm
    have : ∀ k : Fin 4, hostGetDout[k.val]? = some (hostRd (.dout k)) := by decide
    simp [HostProgram.next, ho, hm, HostOp.accesses, this]
  have hs : hostRd (.dout j) ≠ hostRd .status := by
    have : ∀ k : Fin 4, hostRd (.dout k) ≠ hostRd .status := by decide
    exact this j
  rw [turn_hostRd s (hn _ rfl rfl)]
  have hlen : hostGetDout.length = 4 := by decide
  simp only [HostProgram.note, if_neg hs, HostProgram.advance, HostOp.accesses, hlen, readReg]
  by_cases h3 : j.val < 3
  · rw [if_pos h3, if_pos (by omega)]
  · rw [if_neg h3, if_neg (by omega), if_neg (by simp)]
    rfl

/-- Four turns of the host in GETDOUT take the first DOUT_CNT bytes of DOUT, DOUT_CNT being that of the
word last read from STATUS (R119; log entry 23). -/
theorem getDout_takes (rest : List HostOp) (status : Word) (results : List HostResult) (s : State) :
    ∃ t, runTurns [.host, .host, .host, .host]
        { ops := .getDout :: rest, made := 0, words := [], status, results } s =
      .next ({ ops := rest, made := 0, words := [], status
               results := results ++ [.bytes (firstBytes (doutCntRead status) s.dout)] }, t) := by
  have h := fun j words s => turn_getDout j rest words status results s
  have hb : takeDout status ([] ++ [readLanes s.dout 0] ++ [readLanes s.dout 1] ++
      [readLanes s.dout 2] ++ [readLanes s.dout 3]) = firstBytes (doutCntRead status) s.dout := by
    rw [takeDout, firstBytes, ← bytesRead_dout]
    rfl
  rw [← hb]
  exact ⟨_, (runTurns_cons (h 0 _ _)).trans <| (runTurns_cons (h 1 _ _)).trans <|
    (runTurns_cons (h 2 _ _)).trans <| runTurns_cons (h 3 _ _)⟩

/-- WAIT and then GETDOUT, when the command has completed, take the first DOUT_CNT bytes of DOUT, as
STATUS shows DOUT_CNT (R119, R42). -/
theorem wait_getDout_takes (rest : List HostOp) (status : Word) (results : List HostResult)
    (s : State) (hb : s.busy = false) :
    ∃ t, runTurns [.host, .host, .host, .host, .host]
        { ops := .wait :: .getDout :: rest, made := 0, words := [], status, results } s =
      .next ({ ops := rest, made := 0, words := [], status := s.statusWord
               results := results ++ [.words [s.statusWord],
                 .bytes (firstBytes s.doutCnt.toNat s.dout)] }, t) := by
  have hw := turn_wait (.getDout :: rest) status results s
  rw [if_neg (by simp [hb])] at hw
  obtain ⟨t, ht⟩ := getDout_takes rest s.statusWord (results ++ [.words [s.statusWord]])
    { s with completing := none, reply := .data s.statusWord }
  refine ⟨t, (runTurns_cons hw).trans (ht.trans ?_)⟩
  simp

end Sys2Proof.Machine
end

