-- ==== Sys2Proof/Tests/Slice0.lean ====
section
/-! SUPPORT. The model's own tests: the well-formedness check, the decoder on words written out from
R110 and R113, single steps against the vectors of 95_test_vectors.md, and for every obligation with
hypotheses a state and operands that meet them. -/

namespace Sys2Proof.Tests

open Sys2Proof Sys2Proof.Machine Sys2Proof.Safety

set_option maxRecDepth 4000

/-! ## Well-formedness (R111) -/

theorem test_wf_keyAppend_17 : ¬ (Instr.keyAppend 17#5).WellFormed := by decide
theorem test_wf_nameAppend_17 : ¬ (Instr.nameAppend 17#5).WellFormed := by decide
theorem test_wf_nameAppend_31 : ¬ (Instr.nameAppend 31#5).WellFormed := by decide
theorem test_wf_keyAppend_16 : (Instr.keyAppend 16#5).WellFormed := by decide

/-! ## Decoding: RSV (19 bits), CNT (5), OPC (8), written out from R110 and R113 -/

theorem test_decode_abort :
    decode 0b0000000000000000000_00000_00000001#32 = .ok .abort := by decide
theorem test_decode_keyClear :
    decode 0b0000000000000000000_00000_00000010#32 = .ok .keyClear := by decide
theorem test_decode_keyAppend :
    decode 0b0000000000000000000_00110_00000011#32 = .ok (.keyAppend 6#5) := by decide
theorem test_decode_encStart :
    decode 0b0000000000000000000_00000_00010000#32 = .ok .encStart := by decide
theorem test_decode_nameAppend :
    decode 0b0000000000000000000_10000_00010001#32 = .ok (.nameAppend 16#5) := by decide
theorem test_decode_ivGen :
    decode 0b0000000000000000000_00000_00010010#32 = .ok .ivGen := by decide
theorem test_decode_encBlock :
    decode 0b0000000000000000000_00000_00010011#32 = .ok .encBlock := by decide
theorem test_decode_decStart :
    decode 0b0000000000000000000_00000_00100000#32 = .ok .decStart := by decide
theorem test_decode_ivLoad :
    decode 0b0000000000000000000_00000_00100001#32 = .ok .ivLoad := by decide
theorem test_decode_decBlock :
    decode 0b0000000000000000000_00000_00100010#32 = .ok .decBlock := by decide
theorem test_decode_tagCheck :
    decode 0b0000000000000000000_00000_00100011#32 = .ok .tagCheck := by decide

/-- The illegal words of L2.1 that sit next to legal ones. -/
theorem test_decode_illegal :
    decode 0x00000101#32 = .error .countNotAllowed ∧ decode 0x00001F03#32 = .error .countTooLarge ∧
    decode 0x00000004#32 = .error .unknownOpcode ∧ decode 0x00000024#32 = .error .unknownOpcode ∧
    decode 0x00002001#32 = .error .reservedBits ∧ decode 0x80000001#32 = .error .reservedBits := by
  decide

/-- The host's numbering of a row's bits, and the lanes of R90. -/
theorem test_tableWord :
    decodeTableWord 32 0x603 = some (.keyAppend 6#5) ∧ decodeTableWord 8 0x23 = some .tagCheck ∧
    decodeBytes [0x03#8, 0x06#8, 0x00#8, 0x00#8] = .ok (.keyAppend 6#5) ∧
    decodeBytes [0x03#8, 0x06#8] = .error .notOneWord := by decide

theorem test_assemble :
    assemble "NAME_APPEND" (some 5) = some 0x00000511#32 ∧ assemble "KEY_APPEND" (some 17) = none ∧
    assemble "ABORT" (some 0) = none ∧ assemble "KEY_APPEND" none = none := by decide

/-! ## Single steps -/

/-- The next state of an outcome that has one. -/
def after (o : Out) : State :=
  match o with
  | .next t => t
  | .fault _ | .refused _ => .reset

/-- A state of the given STATE, with nothing else set. -/
def inState (q : SeqState) : State := { State.reset with state := q }

/-- A block whose byte i is b + i. -/
def ramp (b : Byte) : Block := Vector.ofFn fun i => b + BitVec.ofNat 8 i.val

/-- Operands of a pending command. -/
def operands : Snap := { din := ramp 0x40#8, tagin := zeroTag, len := 20#64, secret := [],
                         keylen := 0#32 }

/-- The state s with the command i pending on p, and the completion step as the next action. -/
def pendingOn (i : Instr) (p : Snap) (pf : Bool) (s : State) : State :=
  { s with busy := true, pend := some ⟨i, p⟩, inputs := [.complete pf] }

/-- The same, in its completion step. -/
def completingOn (i : Instr) (p : Snap) (pf : Bool) (s : State) : State :=
  { s with busy := true, pend := some ⟨i, p⟩, completing := some pf }

/-- The state s with the given next actions. -/
def facing (l : List Input) (s : State) : State := { s with inputs := l }

/-- L2.13 "ABORT while busy", its last step: IDLE, ERR 0, CMPL 1, BLKREM 0. -/
theorem test_abort_at_completion :
    let t := after (step { pendingOn .encStart operands true (inState .idle) with abrt := true })
    t.state = .idle ∧ t.err = .none ∧ t.cmpl = true ∧ t.blkrem = 0#64 ∧ t.fail = false := by decide

/-- L2.3: KEY_CLEAR in ERROR leaves STATE and ERR. -/
theorem test_keyClear_in_error :
    let s := { inState .error with err := .keyOvf, secret := [1#8, 2#8], keylen := 2#32 }
    let t := after (exec .keyClear s)
    t.secret = [] ∧ t.keylen = 0#32 ∧ t.state = .error ∧ t.err = .keyOvf := by decide

/-- L2.3, for a buffer of 8 bytes holding 6: KEY_APPEND 2 reaches the capacity, KEY_APPEND 3 is
KEY_OVF. -/
theorem test_keyAppend_capacity :
    let p := { operands with secret := [1#8, 2#8, 3#8, 4#8, 5#8, 6#8], keylen := 6#32 }
    ((performKeyAppend 8 2#5 p .reset).map fun t => (t.secret, t.keylen)).toOption =
      some ([1#8, 2#8, 3#8, 4#8, 5#8, 6#8, 0x40#8, 0x41#8], 8#32) ∧
    (performKeyAppend 8 3#5 p .reset).toOption = none := by decide

/-- L2.4, rows 16, 17 and 2^64 - 1 of the table: BLKREM, REM and LASTCNT. -/
theorem test_encStart_counts :
    (List.map (fun L : BitVec 64 =>
        let t := after (exec .encStart
          (completingOn .encStart { operands with len := L } false (inState .idle)))
        (t.blkrem, t.rem, t.lastCnt)) [0#64, 16#64, 17#64, 18446744073709551615#64]) =
      [(1#64, 0#4, 0#5), (1#64, 0#4, 16#5), (2#64, 1#4, 1#5),
       (1152921504606846976#64, 15#4, 15#5)] := by decide

/-- L2.4, row 20: STATUS after the completion of ENC_START. -/
theorem test_encStart_status :
    (after (step (pendingOn .encStart operands false (inState .idle)))).statusWord =
      0x00400001#32 := by decide

/-- L2.13: NAME_APPEND 0 cannot fail. -/
theorem test_nameAppend_0_cannot_fail :
    let t := after (step (pendingOn (.nameAppend 0#5) operands true (inState .eName)))
    t.state = .eName ∧ t.err = .none ∧ t.cmpl = true ∧ t.fail = false := by decide

/-- L2.5's second row: HMSG after ENC_START's eight bytes and NAME_APPEND 5 of "a.txt". -/
theorem test_nameAppend_hmsg :
    let p := { operands with din := blockOf [0x61#8, 0x2E#8, 0x74#8, 0x78#8, 0x74#8, 0xFF#8] }
    let s := { inState .eName with hmsg := le64 10#64 }
    (after (exec (.nameAppend 5#5) (completingOn (.nameAppend 5#5) p false s))).hmsg =
      [0x0A#8, 0#8, 0#8, 0#8, 0#8, 0#8, 0#8, 0#8, 0x61#8, 0x2E#8, 0x74#8, 0x78#8, 0x74#8] := by
  decide

/-- L1.5: the remainder overwrite of IV byte 15. -/
theorem test_remainder_overwrite :
    withLowNibble 0x37#8 (remainderOf 10#64) = 0x3A#8 ∧
    withLowNibble 0xFF#8 (remainderOf 16#64) = 0xF0#8 ∧
    withLowNibble 0xA5#8 (remainderOf 18446744073709551615#64) = 0xAF#8 ∧
    withLowNibble 0x5C#8 (remainderOf 33#64) = 0x51#8 := by decide

/-- L2.13 "hash failure": IV_GEN whose draw failed. -/
theorem test_ivGen_primFail :
    let t := after (step (pendingOn .ivGen operands true { inState .eName with rem := 4#4 }))
    t.state = .error ∧ t.err = .primFail ∧ t.dout = zeroBlock ∧ t.fail = true := by decide

/-- The toy cipher of 95_test_vectors.md (TE and TD), with constant digests. -/
def toy : Config.Params where
  hash := fun _ => Vector.replicate Config.hashLen 0#8
  encipher := fun k x => Vector.ofFn fun i => byteAt x.toList ((i.val + 1) % 16) ^^^ k[i]
  decipher := fun k y => Vector.ofFn fun i =>
    byteAt y.toList ((i.val + 15) % 16) ^^^ byteAt k.toList ((i.val + 15) % 16)
  mac := fun _ _ => zeroTag
  secretMaxBits := 64#32

/-- L2.7, the first row: EncBlock and DecBlock. -/
theorem test_chained_transform :
    let chain : Block := Vector.replicate 16 0xA5#8
    let c := (encryptBlock toy (ramp 0x10#8) (ramp 0#8) chain).1
    c.toList = [0xB4#8, 0xB6#8, 0xB4#8, 0xB2#8, 0xB4#8, 0xB6#8, 0xB4#8, 0xBA#8,
                0xB4#8, 0xB6#8, 0xB4#8, 0xB2#8, 0xB4#8, 0xB6#8, 0xB4#8, 0xBA#8] ∧
    (decryptBlock toy (ramp 0x10#8) c chain).1 = ramp 0#8 := by decide

/-- L2.8, block 1: four bytes taken, the bytes 44 .. 4F of block 0 stale. -/
theorem test_encBlock_stale_bytes :
    let s := { inState .eStream with blkrem := 1#64, lastCnt := 4#5, buf := ramp 0x40#8 }
    (filledBuf { operands with din := ramp 0x50#8 } s).toList =
      [0x50#8, 0x51#8, 0x52#8, 0x53#8, 0x44#8, 0x45#8, 0x46#8, 0x47#8,
       0x48#8, 0x49#8, 0x4A#8, 0x4B#8, 0x4C#8, 0x4D#8, 0x4E#8, 0x4F#8] := by decide

/-- R263, R264: the final block ends in DONE with the working state zeroized. -/
theorem test_encBlock_final :
    let s := { inState .eStream with blkrem := 1#64, lastCnt := 4#5, buf := ramp 0x40#8,
                                     wk := ramp 1#8, iv := ramp 2#8 }
    let t := after (exec .encBlock (completingOn .encBlock operands false s))
    t.state = .done ∧ t.doutCnt = 16#5 ∧ t.wk = zeroKey ∧ t.buf = zeroBlock ∧ t.iv = zeroBlock ∧
      t.blkrem = 0#64 := by decide

/-- L1.8: the format check at 47, 48, 49, 64, 65 and 2^64 - 16. -/
theorem test_decStart_lengths :
    (List.map (fun L : BitVec 64 =>
        let t := after (exec .decStart { inState .done with len := L })
        (t.state, t.err, t.blkrem)) [47#64, 48#64, 49#64, 64#64, 65#64, 18446744073709551600#64]) =
      [(.error, .format, 0#64), (.dIv, .none, 0#64), (.error, .format, 0#64), (.dIv, .none, 1#64),
       (.error, .format, 0#64), (.dIv, .none, 1152921504606846972#64)] := by decide

/-- L2.10: REM from IV byte 15, and the state after IV_LOAD for CL = 80 and CL = 48. -/
theorem test_ivLoad :
    (List.map (fun x : Byte × BitVec 64 =>
        let p := { operands with din := zeroBlock.set 15 x.1 }
        let t := after (exec .ivLoad
          (completingOn .ivLoad p false { inState .dIv with dir := true, blkrem := x.2 }))
        (t.rem, t.state)) [(0xFF#8, 2#64), (0x07#8, 0#64), (0x30#8, 1#64)]) =
      [(15#4, .dStream), (7#4, .dTag), (0#4, .dStream)] := by decide

/-- L2.11: DOUT_CNT of a non-final block, a short final block and a full final block. -/
theorem test_decBlock_counts :
    (List.map (fun x : BitVec 64 × BitVec 4 =>
        let t := after (exec .decBlock
          (completingOn .decBlock operands false
            { inState .dStream with dir := true, blkrem := x.1, rem := x.2 }))
        (t.doutCnt, t.state)) [(2#64, 4#4), (1#64, 4#4), (1#64, 0#4)]) =
      [(16#5, .dStream), (4#5, .dTag), (16#5, .dTag)] := by decide

/-- L2.12: DOUT keeps only the first DOUT_CNT bytes. -/
theorem test_decBlock_tail :
    let s := { inState .dStream with blkrem := 1#64, rem := 4#4 }
    ((performDecBlock toy operands s).map fun t => t.dout.toList.drop 4).toOption =
      some (List.replicate 12 0#8) := by decide

/-- L2.12: a wrong tag is AUTH, the right one DONE. -/
theorem test_tagCheck :
    let s := inState .dTag
    ((performTagCheck toy operands s).map fun t => (t.state, t.authOk)).toOption =
      some (.done, true) ∧
    (performTagCheck toy { operands with tagin := zeroTag.set 31 1#8 } s).toOption = none := by
  decide

/-- L2.13 "block command in IDLE" and "illegal before legality". -/
theorem test_reject_order :
    (after (step (facing [cmdWrite 0x00000013#32] .reset))).err = .badState ∧
    (after (step (facing [cmdWrite 0x00000113#32] .reset))).err = .illegalCmd := by decide

/-- L2.13 "overrun": STATUS before the completion, and the completion. -/
theorem test_overrun :
    let s := pendingOn .encStart operands false (inState .idle)
    let t := after (step { s with inputs := [cmdWrite 0x00000511#32, .complete false] })
    t.statusWord = 0x01000010#32 ∧ (after (step t)).err = .overrun := by decide

/-- L2.2: the access cases that get the error response, and two that do not. -/
theorem test_window :
    readReply .reset 0x28#8 .w32 = .error .busError ∧
    readReply .reset 0x90#8 .w32 = .error .busError ∧
    readReply .reset 0x02#8 .w32 = .error .busError ∧
    readReply .reset 0x08#8 .w16 = .error .busError ∧
    readReply .reset 0x08#8 (widthOfBytes 3) = .error .busError ∧
    (after (step (facing [.write 0x14#8 .w64 5#64] .reset))).len = 0#64 ∧
    readReply (after (step (facing [hostWr .intEn 0xFFFFFFFF#32] .reset))) 0x0C#8 .w32 =
      .data 3#32 := by decide

/-- L2.2: DIN0's lanes, and INT_STAT's write-one-to-clear. -/
theorem test_window_writes :
    (after (step (facing [hostWr (.din 0) 0x64636261#32] .reset))).din.toList.take 5 =
      [0x61#8, 0x62#8, 0x63#8, 0x64#8, 0x00#8] ∧
    (after (step (facing [hostWr .intStat 1#32]
      { State.reset with cmpl := true, fail := true }))).intStatWord = 2#32 := by decide

/-- What a run of turns leaves of the host's program. -/
def programAfter (xs : List Turn) (h : HostProgram) (s : State) : HostProgram :=
  match runTurns xs h s with
  | .next (g, _) => g
  | .fault _ | .refused _ => h

/-- R119: WAIT reads STATUS again while it sees BUSY, and ends at the read after the completion, with
the word of L2.4's row 20. -/
theorem test_wait_polls :
    let s := { pendingOn .encStart operands false (inState .idle) with inputs := [] }
    (programAfter [.host, .host] (.start [.wait]) s).ops = [.wait] ∧
    (programAfter [.host, .host, .world (.complete false), .host] (.start [.wait]) s).results =
      [.words [0x00400001#32]] := by decide

/-- R119: GETDOUT takes DOUT_CNT bytes, here of P2's last block (DOUT_CNT = 10), of the four words. -/
theorem test_getDout_takes :
    let s := { inState .dTag with
      doutCnt := 10#5, dout := blockOf [0x30#8, 0x31#8, 0x32#8, 0x33#8, 0x34#8, 0x35#8, 0x36#8,
        0x37#8, 0x38#8, 0x39#8] }
    ((programAfter (List.replicate 5 .host) (.start [.wait, .getDout]) s).results.drop 1) =
      [.bytes [0x30#8, 0x31#8, 0x32#8, 0x33#8, 0x34#8, 0x35#8, 0x36#8, 0x37#8, 0x38#8, 0x39#8]] := by
  decide

/-- The word that a row of the opcode table gives runs as the first command after reset. -/
theorem test_withFetchWord :
    (after (step (State.withFetchWord .reset 32 0x10))).busy = true ∧
    (after (step (State.withFetchWord .reset 32 0x22))).err = .badState := by decide

/-! ## Witnesses: states and operands that meet the hypotheses of each obligation -/

theorem witness_DecodeInvertsEncode :
    (Instr.keyAppend 16#5).WellFormed ∧ Instr.tagCheck.WellFormed := by decide

theorem witness_LegalWordIsItsEncoding : decode 0x00001011#32 = .ok (.nameAppend 16#5) := by decide

theorem witness_StepRunsDecodedCommand :
    let s := facing [.write 0x04#8 .w32 ((0x00001003#32).setWidth 64)] (inState .idle)
    s.inputs = .write 0x04#8 .w32 ((0x00001003#32).setWidth 64) :: [] ∧ s.busy = false ∧
      decode 0x00001003#32 = .ok (.keyAppend 16#5) := by decide

/-- The word with the smallest count that is too large. -/
theorem witness_IllegalWordRaisesIllegalCmd :
    let s := facing [.write 0x04#8 .w32 ((0x00001103#32).setWidth 64)] (inState .dTag)
    s.inputs = .write 0x04#8 .w32 ((0x00001103#32).setWidth 64) :: [] ∧ s.busy = false ∧
      ∀ i, decode 0x00001103#32 ≠ .ok i := by
  refine ⟨rfl, rfl, fun i h => ?_⟩
  rw [show decode 0x00001103#32 = .error .countTooLarge by decide] at h
  cases h

/-- A busy AEO about to see a CMD write of w. -/
def busyFacing (w : Word) : State :=
  { pendingOn .ivGen operands false (inState .eName) with
    inputs := [.write 0x04#8 .w32 (w.setWidth 64)] }

theorem witness_CommandWriteWhileBusy_abort :
    (busyFacing 0x00000001#32).inputs = .write 0x04#8 .w32 ((0x00000001#32).setWidth 64) :: [] ∧
      (busyFacing 0x00000001#32).busy = true := ⟨rfl, rfl⟩

/-- A word that differs from ABORT's in CNT only. -/
theorem witness_CommandWriteWhileBusy_other :
    (busyFacing 0x00000101#32).inputs = .write 0x04#8 .w32 ((0x00000101#32).setWidth 64) :: [] ∧
      (busyFacing 0x00000101#32).busy = true ∧ 0x00000101#32 ≠ 0x00000001#32 :=
  ⟨rfl, rfl, by decide⟩

theorem witness_CompletionStepRunsPending_busy :
    let s := pendingOn .ivGen operands true (inState .eName)
    s.inputs = .complete true :: [] ∧ s.busy = true ∧ s.pend = some ⟨.ivGen, operands⟩ := by decide

theorem witness_CompletionStepRunsPending_notBusy :
    let s := facing [.complete true] .reset
    s.inputs = .complete true :: [] ∧ s.busy = false := by decide

theorem witness_CompletionStepRunsPending_idle : (inState .dIv).inputs = [] := by decide

theorem witness_ResetInAnyState :
    let s := { pendingOn .ivGen operands true (inState .eName) with inputs := [.reset] }
    s.inputs = .reset :: [] := by decide

/-- The last register's offset, and a read there. -/
theorem witness_BusErrorExactly_permitted :
    (Width.w32 = .w32 ∧ (0x8C#8).toNat % 4 = 0 ∧ 0x8C#8 ≠ 0x28#8 ∧ 0x8C#8 ≠ 0x2C#8 ∧
      (0x8C#8).toNat < 0x90) ∧
    (facing [.read 0x8C#8 .w32] .reset).inputs = .read 0x8C#8 .w32 :: [] ∧
    (facing [.write 0x8C#8 .w32 7#64] .reset).inputs = .write 0x8C#8 .w32 7#64 :: [] := by decide

/-- The first offset past the registers, the two reserved ones, an unaligned one, another width. -/
theorem witness_BusErrorExactly_refused :
    ∀ x ∈ [(Width.w32, 0x90#8), (.w32, 0x28#8), (.w32, 0x2C#8), (.w32, 0x8E#8), (.w64, 0x14#8),
        (.other 3, 0x14#8)],
      ¬ (x.1 = .w32 ∧ x.2.toNat % 4 = 0 ∧ x.2 ≠ 0x28#8 ∧ x.2 ≠ 0x2C#8 ∧ x.2.toNat < 0x90) ∧
      (facing [.read x.2 x.1] .reset).inputs = .read x.2 x.1 :: [] := by decide

/-- The first and the last of the write-only offsets. -/
theorem witness_ConstantReads :
    ∀ off ∈ [0x04#8, 0x30#8, 0x3C#8, 0x70#8, 0x8C#8],
      off = 0x04#8 ∨ off ∈ [0x30#8, 0x34#8, 0x38#8, 0x3C#8] ∨
        off ∈ [0x70#8, 0x74#8, 0x78#8, 0x7C#8, 0x80#8, 0x84#8, 0x88#8, 0x8C#8] := by decide

/-- Two states that differ in SECRET, WK and CHAIN. -/
theorem witness_SecretsCannotBeRead :
    SameVisible { inState .eStream with secret := [1#8], wk := ramp 1#8, chain := ramp 2#8 }
      { inState .eStream with secret := [2#8], wk := ramp 3#8, chain := ramp 4#8 } := by
  unfold SameVisible
  decide

theorem witness_BlockRegisterWrites_din :
    let s := facing [.write (BitVec.ofNat 8 (0x30 + 4 * 3)) .w32 ((5#32).setWidth 64)] .reset
    s.inputs = .write (BitVec.ofNat 8 (0x30 + 4 * (3 : Fin 4).val)) .w32 ((5#32).setWidth 64) :: [] := by
  decide

theorem witness_BlockRegisterWrites_tagin :
    let s := facing [.write (BitVec.ofNat 8 (0x70 + 4 * 7)) .w32 ((5#32).setWidth 64)] .reset
    s.inputs = .write (BitVec.ofNat 8 (0x70 + 4 * (7 : Fin 8).val)) .w32 ((5#32).setWidth 64) :: [] := by
  decide

theorem witness_ControlRegisterWrites :
    ∀ off ∈ [0x0C#8, 0x10#8, 0x14#8, 0x18#8],
      (facing [.write off .w32 ((3#32).setWidth 64)] .reset).inputs =
        .write off .w32 ((3#32).setWidth 64) :: [] := by decide

/-- R36 and R300: the codes of D_TAG, and of ERROR with OVERRUN. -/
theorem test_status_codes :
    readReply (inState .dTag) 0x08#8 .w32 = .data 0x00000005#32 ∧
    readReply { inState .error with err := .overrun } 0x08#8 .w32 = .data 0x00000507#32 := by decide

/-- The read-only registers' first and last offsets. -/
theorem witness_ReadOnlyWritesIgnored :
    ∀ off ∈ [0x00#8, 0x24#8, 0x40#8, 0x6C#8],
      (facing [.write off .w32 9#64] .reset).inputs = .write off .w32 9#64 :: [] ∧
      (off ∈ [0x00#8, 0x08#8, 0x1C#8, 0x20#8, 0x24#8] ∨
        (off.toNat % 4 = 0 ∧ 0x40 ≤ off.toNat ∧ off.toNat < 0x70)) := by decide

theorem witness_RejectedAtAcceptance :
    (inState .idle).busy = false ∧ (inState .idle).completing = none ∧
    (Instr.encBlock.WellFormed ∧ legal .encBlock (inState .idle).state = false) ∧
    ¬ (Instr.keyAppend 17#5).WellFormed := by decide

theorem witness_BusyCommandAccepted :
    Instr.ivLoad.class = .busy ∧ Instr.ivLoad.WellFormed ∧ (inState .dIv).busy = false ∧
      (inState .dIv).completing = none ∧ legal .ivLoad (inState .dIv).state = true := by decide

/-- IV_GEN in its completion step with the given ABRT and OVR. -/
def ivGenWith (abrt ovr : Bool) : State :=
  { completingOn .ivGen operands true (inState .eName) with abrt := abrt, ovr := ovr }

/-- The three clauses of the order at completion. -/
theorem witness_CompletionPriority :
    (∀ a o, Instr.ivGen.class = .busy ∧ (ivGenWith a o).completing = some true ∧
      (ivGenWith a o).pend = some ⟨.ivGen, operands⟩) ∧
    (ivGenWith true true).abrt = true ∧
    ((ivGenWith false true).abrt = false ∧ (ivGenWith false true).ovr = true) ∧
    ((ivGenWith false false).abrt = false ∧ (ivGenWith false false).ovr = false ∧
      Instr.ivGen ≠ .nameAppend 0#5) := by decide

/-- ENC_START pending, and each kind of step that keeps it so: a read, a CMD write that is an overrun,
ABORT, an operand write and an INT_STAT write. -/
theorem witness_BusyHoldsResults :
    ∀ x ∈ [Input.read 0x08#8 .w32, cmdWrite 0x00000010#32, cmdWrite 0x00000001#32,
        hostWr (.din 0) 1#32, hostWr .intStat 3#32],
      let s := facing [x] (pendingOn .encStart operands false (inState .idle))
      ∃ t, step s = .next t ∧ s.busy = true ∧ t.busy = true := by
  intro x hx
  simp only [List.mem_cons, List.not_mem_nil, or_false] at hx
  rcases hx with rfl | rfl | rfl | rfl | rfl <;> exact ⟨_, rfl, rfl, rfl⟩

/-- Both classes: DEC_START's word, and ENC_START's with its completion, in IDLE. -/
theorem witness_RunCommandIsTheMachine :
    (let s := facing [.write 0x04#8 .w32 ((encode .decStart).setWidth 64)] (inState .idle)
     Instr.decStart.WellFormed ∧ s.busy = false ∧ legal .decStart s.state = true ∧
       Instr.decStart.class = .immediate ∧
       s.inputs = .write 0x04#8 .w32 ((encode .decStart).setWidth 64) :: []) ∧
    (let s := facing [.write 0x04#8 .w32 ((encode .encStart).setWidth 64), .complete false]
      (inState .idle)
     Instr.encStart.WellFormed ∧ s.busy = false ∧ legal .encStart s.state = true ∧
       Instr.encStart.class = .busy ∧ s.abrt = false ∧ s.ovr = false ∧
       s.inputs = .write 0x04#8 .w32 ((encode .encStart).setWidth 64) :: .complete false :: []) := by
  decide

theorem witness_AbortCompletes : (inState .error).busy = false := by decide

/-- KEY_CLEAR's and DEC_START's hypotheses, in each of their three states. -/
theorem witness_KeyClearCompletes :
    ∀ q ∈ [SeqState.idle, .done, .error],
      (inState q).busy = false ∧
        ((inState q).state = .idle ∨ (inState q).state = .done ∨ (inState q).state = .error) := by
  decide

/-- KEY_APPEND with room: one byte into an empty buffer fits whatever SECRET_MAX is. -/
theorem witness_KeyAppendCompletes_room :
    (1#5).toNat ≤ 16 ∧ (inState .idle).busy = false ∧ (inState .idle).state = .idle ∧
      (inState .idle).keylen.toNat + (1#5).toNat ≤ Config.params.secretMax :=
  ⟨by decide, rfl, rfl, Config.params.secretMax_pos⟩

/-- An idle AEO with k as its KEYLEN. -/
def keylenOf (k : Nat) : State := { inState .idle with keylen := BitVec.ofNat 32 k }

/-- KEY_APPEND 1 with one byte of room: the buffer is exactly full afterwards. -/
theorem witness_KeyAppendCompletes_full :
    let s := keylenOf (Config.params.secretMax - 1)
    (1#5).toNat ≤ 16 ∧ s.busy = false ∧ s.state = .idle ∧
      s.keylen.toNat + (1#5).toNat = Config.params.secretMax := by
  refine ⟨by decide, rfl, rfl, ?_⟩
  have h1 := Config.params.secretMax_pos
  have h2 := Config.params.secretMax_lt
  simp only [keylenOf, BitVec.toNat_ofNat]
  rw [Nat.mod_eq_of_lt (by omega)]
  exact Nat.sub_add_cancel h1

/-- KEY_APPEND 1 into a full buffer. -/
theorem witness_KeyAppendCompletes_overflow :
    let s := keylenOf Config.params.secretMax
    (1#5).toNat ≤ 16 ∧ s.busy = false ∧ s.state = .idle ∧
      Config.params.secretMax < s.keylen.toNat + (1#5).toNat := by
  refine ⟨by decide, rfl, rfl, ?_⟩
  have h2 := Config.params.secretMax_lt
  simp only [keylenOf, BitVec.toNat_ofNat]
  rw [Nat.mod_eq_of_lt h2]
  exact Nat.lt_succ_self _

/-- The hypotheses of the completion statements, for each busy-class command. -/
theorem witness_completions :
    ∀ i ∈ [Instr.encStart, .nameAppend 16#5, .ivGen, .encBlock, .ivLoad, .decBlock, .tagCheck],
      let s := completingOn i operands false (inState .eName)
      s.completing = some false ∧ s.pend = some ⟨i, operands⟩ ∧ s.abrt = false ∧ s.ovr = false := by
  decide

theorem witness_NameAppendCompletes_zero :
    let s := completingOn (.nameAppend 0#5) operands true (inState .eName)
    s.completing = some true ∧ s.pend = some ⟨.nameAppend 0#5, operands⟩ ∧ s.abrt = false ∧
      s.ovr = false ∧ (true = false ∨ 0#5 = 0#5) := by decide

/-- ENC_BLOCK in its completion step with the given BLKREM. -/
def encBlockWith (blkrem : BitVec 64) : State :=
  { completingOn .encBlock operands false (inState .eStream) with blkrem := blkrem }

/-- BLKREM at 2, for the block that is not the last, and at 1, for the last. -/
theorem witness_EncBlock :
    (∀ b, (encBlockWith b).completing = some false ∧
      (encBlockWith b).pend = some ⟨.encBlock, operands⟩ ∧ (encBlockWith b).abrt = false ∧
      (encBlockWith b).ovr = false) ∧
    (encBlockWith 2#64).blkrem ≠ 1#64 ∧ (encBlockWith 1#64).blkrem = 1#64 :=
  ⟨fun _ => ⟨rfl, rfl, rfl, rfl⟩, by decide, rfl⟩

/-- The smallest accepted container length and the lengths on each side of it. -/
theorem witness_DecStartCompletes :
    let s := fun L : BitVec 64 => { inState .error with len := L }
    ((s 48#64).busy = false ∧ (s 48#64).state = .error) ∧
    (48 ≤ (s 48#64).len.toNat ∧ ((s 48#64).len.toNat - 48) % 16 = 0) ∧
    ¬ (48 ≤ (s 47#64).len.toNat ∧ ((s 47#64).len.toNat - 48) % 16 = 0) ∧
    ¬ (48 ≤ (s 49#64).len.toNat ∧ ((s 49#64).len.toNat - 48) % 16 = 0) := by decide

/-- TAG_CHECK with the tag that matches, whatever the MAC is. -/
theorem witness_TagCheckCompletes_match :
    let p := { operands with tagin := Config.params.mac zeroKey [] }
    let s := completingOn .tagCheck p false (inState .dTag)
    s.completing = some false ∧ s.pend = some ⟨.tagCheck, p⟩ ∧ s.abrt = false ∧ s.ovr = false ∧
      Config.params.mac s.wk s.mmsg = p.tagin := ⟨rfl, rfl, rfl, rfl, rfl⟩

/-- A tag that differs from a given one in its last byte. -/
def otherTag (t : Tag) : Tag := t.set 31 (t[31] ^^^ 1#8)

theorem otherTag_ne (t : Tag) : t ≠ otherTag t := by
  intro h
  have h31 : t[31] = t[31] ^^^ 1#8 := by
    have := congrArg (fun v : Tag => v[31]) h
    simpa [otherTag] using this
  have hne : ∀ x : Byte, x ≠ x ^^^ 1#8 := by decide
  exact hne _ h31

/-- TAG_CHECK with a tag that does not match, whatever the MAC is. -/
theorem witness_TagCheckCompletes_mismatch :
    let p := { operands with tagin := otherTag (Config.params.mac zeroKey []) }
    let s := completingOn .tagCheck p false (inState .dTag)
    s.completing = some false ∧ s.pend = some ⟨.tagCheck, p⟩ ∧ s.abrt = false ∧ s.ovr = false ∧
      Config.params.mac s.wk s.mmsg ≠ p.tagin := ⟨rfl, rfl, rfl, rfl, otherTag_ne _⟩

/-- DerivedIv's clause on bytes 0 to 14, at both ends. -/
theorem witness_DerivedIvCarriesRemainder :
    (0 : Fin 16).val < 15 ∧ (14 : Fin 16).val < 15 := by decide

/-- The file sizes at both ends of 64 bits. -/
theorem witness_BlockCountsAddUp :
    (1 : Nat) ≠ 0 ∧ 2 ^ 64 - 1 ≠ 0 ∧ (0 : Nat) < 2 ^ 64 ∧ 2 ^ 64 - 1 < 2 ^ 64 := by decide

/-- TD inverts TE, as 95_test_vectors.md says of the toy cipher. -/
theorem toy_cipherInverse : toy.CipherInverse := by
  intro k x
  apply Vector.ext
  intro i h
  have h16 : i < 16 := h
  have hm : (i + 15) % 16 < Config.blockLen := Nat.mod_lt _ (by decide)
  have hi : ((i + 15) % 16 + 1) % 16 = i := by omega
  have hx : byteAt x.toList i = x[i] := byteAt_toList x i h
  simp only [toy, Vector.getElem_ofFn, byteAt_toList _ _ hm, hi, hx, Fin.getElem_fin]
  rw [BitVec.xor_assoc, BitVec.xor_self, BitVec.xor_zero]

theorem witness_BlockTransformInverts : toy.CipherInverse := toy_cipherInverse

/-- A one-byte file, from DONE to ERROR, with a secret. -/
theorem witness_DecryptInvertsEncrypt :
    let s := { inState .done with secret := [7#8], keylen := 1#32 }
    let r := { inState .error with secret := [7#8], keylen := 1#32 }
    toy.CipherInverse ∧ legal .encStart s.state = true ∧ legal .decStart r.state = true ∧
      s.secret = r.secret ∧ 1 ≤ [0x41#8].length ∧ [0x41#8].length ≤ 2 ^ 64 - 64 :=
  ⟨toy_cipherInverse, rfl, rfl, rfl, by decide, by decide⟩

theorem witness_EmptyPlaintextDecryptsToZeros :
    toy.CipherInverse ∧ legal .encStart (inState .idle).state = true ∧
      legal .decStart (inState .done).state = true ∧
      (inState .idle).secret = (inState .done).secret :=
  ⟨toy_cipherInverse, rfl, rfl, rfl⟩

/-- "a." and "txt" against "a.txt" in one piece (L2.5). -/
theorem witness_ContainerIsDetermined :
    legal .encStart (inState .idle).state = true ∧ legal .encStart (inState .error).state = true ∧
    (inState .idle).secret = (inState .error).secret ∧
    namesBytes [(2#5, blockOf [0x61#8, 0x2E#8]), (3#5, blockOf [0x74#8, 0x78#8, 0x74#8])] =
      namesBytes [(5#5, blockOf [0x61#8, 0x2E#8, 0x74#8, 0x78#8, 0x74#8])] ∧
    [0x41#8].length < 2 ^ 64 := by decide

/-- ENC_START pending on an AEO with a two-byte secret, and its completion next. -/
def busyState : State :=
  { pendingOn .encStart operands false .reset with
    secret := [1#8], keylen := 1#32, pend := some
      ⟨.encStart, { operands with secret := [1#8], keylen := 1#32 }⟩ }

theorem witness_StepKeepsControl : Control busyState ∧ ∃ t, step busyState = .next t := by
  refine ⟨⟨rfl, rfl, fun h => (nomatch h), fun p h => ?_⟩, _, rfl⟩
  cases h
  decide

theorem witness_StepKeepsInvariant : Inv busyState ∧ ∃ t, step busyState = .next t := by
  obtain ⟨hc, hs⟩ := witness_StepKeepsControl
  refine ⟨⟨hc, ⟨rfl, Config.params.secretMax_pos⟩, ?_, ?_, ?_, ?_, ?_⟩, hs⟩
  · intro _
    unfold Zeroized
    decide
  · unfold Verdict
    decide
  · unfold OutputTrimmed
    decide
  · unfold Counted
    decide
  · unfold Chained
    exact fun h => absurd h (by decide)

/-- The working key of the empty secret and the IV of zeros. -/
def someWk : Key := stretchKey Config.params [] zeroBlock

/-- TAG_CHECK pending on the tag that matches, after a container of no blocks, and its completion
next. -/
def verifiedState : State :=
  pendingOn .tagCheck { operands with tagin := Config.params.mac someWk [] } false
    { inState .dTag with dir := true, wk := someWk }

theorem verifiedState_inv : Inv verifiedState := by
  refine ⟨⟨rfl, rfl, fun h => (nomatch h), fun p h => ?_⟩, ⟨rfl, Nat.zero_le _⟩, ?_, ?_, ?_, ?_,
    fun _ => ⟨rfl, rfl⟩⟩
  · cases h
    exact ⟨rfl, rfl, rfl, rfl, rfl⟩
  · exact fun h => absurd h (by decide)
  · unfold Verdict
    decide
  · unfold OutputTrimmed
    decide
  · unfold Counted
    decide

/-- A state between E_NAME and D_TAG with BLKREM = b, WK and CHAIN as the empty secret and the IV of
zeros give them, and the pending command i, its completion next. -/
def midway (q : SeqState) (b : BitVec 64) (dir : Bool) (i : Instr) : State :=
  pendingOn i { din := zeroBlock, tagin := zeroTag, len := 0#64, secret := [], keylen := 0#32 } false
    { inState q with dir := dir, blkrem := b, wk := someWk, hmsg := le64 0#64 }

theorem midway_inv (q : SeqState) (b : BitVec 64) (dir : Bool) (i : Instr)
    (hq : q ∈ [SeqState.eName, .eStream, .dIv, .dStream])
    (hd : dir = true ↔ q = .dIv ∨ q = .dStream)
    (hb : 1 ≤ b.toNat) (hb' : b.toNat ≤ 2 ^ 60)
    (hi : i.class = .busy ∧ i.WellFormed ∧ legal i q = true) : Inv (midway q b dir i) := by
  refine ⟨⟨rfl, rfl, fun h => (nomatch h), fun p h => ?_⟩, ⟨rfl, Nat.zero_le _⟩, ?_, ?_, ?_, ?_,
    fun _ => ⟨rfl, rfl⟩⟩
  · cases h
    exact ⟨hi.1, hi.2.1, hi.2.2, rfl, rfl⟩
  · intro h
    simp only [midway, pendingOn, inState] at h
    rcases h with rfl | rfl | rfl <;> simp at hq
  · simp only [Verdict, midway, pendingOn, inState, State.reset]
    simp only [List.mem_cons, List.not_mem_nil, or_false] at hq
    rcases hq with rfl | rfl | rfl | rfl <;> simp at hd <;> simp [hd]
  · have h : OutputTrimmed State.reset := by
      unfold OutputTrimmed
      decide
    exact h
  · have h0 : lowNibble (byteAt (le64 0#64) 0) = 0#4 := by decide
    have h1 : lowNibble (lastByte zeroBlock) = 0#4 := by decide
    refine ⟨fun _ => ⟨hb, Nat.le_refl 8, h0⟩, fun _ => ⟨hb, h1⟩, fun _ => ⟨hb, h1⟩,
      fun h => ?_, fun _ => rfl, Nat.zero_le _, hb'⟩
    simp only [midway, pendingOn, inState] at h
    subst h
    simp at hq

/-- Each clause: a step that stays in E_NAME or in D_IV, one that enters E_STREAM or D_STREAM, one
that stays there, and the one that takes the last block to D_TAG. -/
theorem witness_StreamedLength :
    ∀ x ∈ [(SeqState.eName, 2#64, false, Instr.nameAppend 3#5, SeqState.eName),
        (.eName, 1#64, false, .ivGen, .eStream),
        (.eStream, 1152921504606846976#64, false, .encBlock, .eStream),
        (.dIv, 1#64, true, .ivLoad, .dStream),
        (.dStream, 2#64, true, .decBlock, .dStream),
        (.dStream, 1#64, true, .decBlock, .dTag)],
      Inv (midway x.1 x.2.1 x.2.2.1 x.2.2.2.1) ∧
        ∃ t, step (midway x.1 x.2.1 x.2.2.1 x.2.2.2.1) = .next t ∧ t.state = x.2.2.2.2 := by
  intro x hx
  simp only [List.mem_cons, List.not_mem_nil, or_false] at hx
  rcases hx with rfl | rfl | rfl | rfl | rfl | rfl <;>
    exact ⟨midway_inv _ _ _ _ (by decide) (by decide) (by decide) (by decide) (by decide),
      _, rfl, rfl⟩

/-- Both clauses: the step enters DONE with DIR = 1 and sets AUTH_OK. -/
theorem witness_AuthOkOnlyByTagCheck :
    Inv verifiedState ∧ ∃ t, step verifiedState = .next t ∧ verifiedState.authOk = false ∧
      t.authOk = true ∧ verifiedState.state ≠ .done ∧ t.state = .done ∧ t.dir = true := by
  refine ⟨verifiedState_inv, ?_⟩
  have hs : step verifiedState =
      exec .tagCheck { verifiedState with inputs := [], completing := some false } := rfl
  rw [hs, exec_completes (i := .tagCheck) rfl rfl rfl]
  rw [complete_ok rfl rfl (by simp) (by
    simp only [perform, performTagCheck, verifiedState, pendingOn, inState, State.reset, ctEq_self]
    rfl)]
  exact ⟨_, rfl, rfl, rfl, by decide, rfl, rfl⟩

/-- KEY_CLEAR on a secret, and a reset. -/
theorem witness_SecretOnlyByKeyCommands :
    (let s := facing [cmdWrite 0x00000002#32] { inState .error with secret := [1#8] }
     ∃ t, step s = .next t ∧ t.secret ≠ s.secret) ∧
    (let s := facing [.reset] { inState .eStream with secret := [1#8] }
     ∃ t, step s = .next t ∧ t.secret ≠ s.secret) :=
  ⟨⟨_, rfl, by decide⟩, ⟨_, rfl, by decide⟩⟩

/-- A step that changes STATE, and one that leaves ERROR: ABORT's word. -/
theorem witness_StateTransitions :
    (Control busyState ∧ ∃ t, step busyState = .next t ∧ t.state ≠ busyState.state) ∧
    (let s := facing [cmdWrite 0x00000001#32] (inState .error)
     Control s ∧ (∃ t, step s = .next t ∧ t.state ≠ .error) ∧ s.state = .error) :=
  ⟨⟨witness_StepKeepsControl.1, _, rfl, by decide⟩,
    ⟨rfl, rfl, fun _ => ⟨rfl, rfl⟩, fun _ h => nomatch h⟩, ⟨_, rfl, by decide⟩, rfl⟩

theorem witness_LateOperandWritesDoNotReach :
    busyState.busy = true ∧
    (∃ p, busyState.pend = some p ∧ p.cmd.class = .busy) ∧
    (Reg.din 3 = .lenLo ∨ Reg.din 3 = .lenHi ∨ (∃ j, Reg.din 3 = .din j) ∨
      ∃ j, Reg.din 3 = .tagin j) :=
  ⟨rfl, ⟨_, rfl, rfl⟩, .inr (.inr (.inl ⟨3, rfl⟩))⟩

end Sys2Proof.Tests
end

/-! # The register window

What a 32-bit access to a register does in one step, and the fields of the words that the registers
read. -/

namespace Sys2Proof.Machine

open Sys2Proof Sys2Proof.Safety

/-! ## Reads -/

/-- A register reads only what the window shows (R32, R96). -/
theorem readReg_congr {s t : State} (h : SameVisible s t) (r : Reg) : readReg s r = readReg t r := by
  obtain ⟨hstate, hbusy, hdir, hauth, herr, hdc, hrem, hovr, hcie, hfie, hcmpl, hfail, hlen, hkey,
    hblk, hdout, htag⟩ := h
  cases r with
  | id | cmd | din j | tagin j => rfl
  | status =>
    simp only [readReg, State.statusWord, State.last, hstate, hbusy, hdir, hauth, herr, hdc, hrem,
      hovr, hblk]
  | intEn => simp only [readReg, State.intEnWord, hcie, hfie]
  | intStat => simp only [readReg, State.intStatWord, hcmpl, hfail]
  | lenLo | lenHi => simp only [readReg, hlen]
  | keylen => exact hkey
  | blkremLo | blkremHi => simp only [readReg, hblk]
  | dout j => simp only [readReg, hdout]
  | tag j => simp only [readReg, htag]

theorem readReply_congr {s t : State} (h : SameVisible s t) (off : BitVec 8) (width : Width) :
    readReply s off width = readReply t off width := by
  unfold readReply
  split
  · rw [readReg_congr h]
  · rfl

@[simp] theorem readReply_offset (s : State) (r : Reg) :
    readReply s r.offset .w32 = .data (readReg s r) := by
  simp [readReply]

/-- The window does not show what the model's own fields hold. -/
theorem readReply_inputs (s : State) (rest : List Input) (c : Option Bool) (off : BitVec 8)
    (width : Width) :
    readReply { s with inputs := rest, completing := c } off width = readReply s off width :=
  readReply_congr ⟨rfl, rfl, rfl, rfl, rfl, rfl, rfl, rfl, rfl, rfl, rfl, rfl, rfl, rfl, rfl, rfl,
    rfl⟩ off width

/-- Settles O14: the window's registers are functions of what `SameVisible` compares. -/
theorem secretsCannotBeRead : Obligations.SecretsCannotBeRead :=
  fun _ _ off width h => readReply_congr h off width

/-! ## One step of an access -/

theorem step_read {s : State} {off : BitVec 8} {width : Width} {rest : List Input}
    (h : s.inputs = .read off width :: rest) :
    step s = .next { s with
      inputs := rest, completing := none, reply := readReply s off width } := by
  rw [step_input h, applyInput_read, readReply_inputs]
  rfl

/-- A write to a register other than CMD. -/
theorem step_writeReg {s : State} {off : BitVec 8} {r : Reg} {data : BitVec 64} {rest : List Input}
    (h : s.inputs = .write off .w32 data :: rest) (hr : regAt off = some r) (hc : r ≠ .cmd) :
    step s = .next (answer .ack
      (writeReg { s with inputs := rest, completing := none } r (data.setWidth 32))) := by
  rw [step_input h]
  exact hostWrite_reg (by simp [permitted, hr]) hc

/-- A write to CMD (R34). -/
theorem step_writeCmd {s : State} {data : BitVec 64} {rest : List Input}
    (h : s.inputs = .write Reg.cmd.offset .w32 data :: rest) :
    step s = present (data.setWidth 32)
      { s with inputs := rest, completing := none, reply := .ack } := by
  rw [step_input h]
  exact hostWrite_cmd (permitted_offset .cmd)

/-- A write of the word v to a register other than CMD. -/
theorem step_writeWord {s : State} {v : Word} {rest : List Input} (r : Reg) (hc : r ≠ .cmd)
    (h : s.inputs = .write r.offset .w32 (v.setWidth 64) :: rest) :
    step s = .next (answer .ack (writeReg { s with inputs := rest, completing := none } r v)) := by
  rw [step_writeReg h (regAt_offset r) hc, BitVec.setWidth_setWidth_of_le _ (by decide),
    BitVec.setWidth_eq]

/-- Every permitted write is acknowledged, a command's included (R94). -/
theorem step_write_ack {s : State} {off : BitVec 8} {r : Reg} {data : BitVec 64}
    {rest : List Input} (h : s.inputs = .write off .w32 data :: rest) (hr : regAt off = some r) :
    ∃ t, step s = .next t ∧ t.reply = .ack := by
  by_cases hc : r = .cmd
  · subst hc
    obtain rfl := regAt_cmd hr
    obtain ⟨t, ht⟩ := present_next (data.setWidth 32)
      { s with inputs := rest, completing := none, reply := .ack }
    obtain ⟨-, -, -, -, -, -, hreply⟩ := present_hostPart ht
    exact ⟨t, (step_writeCmd h).trans ht, hreply⟩
  · exact ⟨_, step_writeReg h hr hc, rfl⟩

/-- Settles O5: a word written to CMD is presented, and with BUSY = 0 it is decoded. -/
theorem stepRunsDecodedCommand : Obligations.StepRunsDecodedCommand := by
  intro s w rest i hin hb hd
  rw [step_writeCmd hin, BitVec.setWidth_setWidth_of_le _ (by decide), BitVec.setWidth_eq, present,
    if_neg (by simp [hb])]
  simp only [hd]

/-! ## The address decode -/

/-- The offsets of the register map (R32): aligned, below 0x90, and neither 0x28 nor 0x2C. -/
theorem regAt_isSome (off : BitVec 8) :
    (regAt off).isSome = true ↔
      off.toNat % 4 = 0 ∧ off ≠ 0x28#8 ∧ off ≠ 0x2C#8 ∧ off.toNat < 0x90 := by
  revert off
  decide

theorem permitted_iff (off : BitVec 8) (width : Width) :
    (∃ r, permitted off width = .ok r) ↔
      width = .w32 ∧ off.toNat % 4 = 0 ∧ off ≠ 0x28#8 ∧ off ≠ 0x2C#8 ∧ off.toNat < 0x90 := by
  rw [← regAt_isSome]
  constructor
  · rintro ⟨r, hr⟩
    obtain ⟨hw, hreg⟩ := permitted_ok hr
    exact ⟨hw, by simp [hreg]⟩
  · rintro ⟨rfl, hreg⟩
    obtain ⟨r, hr⟩ := Option.isSome_iff_exists.1 hreg
    exact ⟨r, by simp [permitted, hr]⟩

/-- What is not permitted gets the one error of the access decode (R92). -/
theorem permitted_error {off : BitVec 8} {width : Width} (h : ¬ ∃ r, permitted off width = .ok r) :
    permitted off width = .error .busError := by
  cases hp : permitted off width with
  | ok r => exact absurd ⟨r, hp⟩ h
  | error f => cases f; rfl

/-- Settles O12: `permitted_iff` is the condition, and a refused access is answered and nothing else. -/
theorem busErrorExactly : Obligations.BusErrorExactly := by
  intro s off width data rest
  split
  · next hp =>
    obtain ⟨r, hr⟩ := (permitted_iff off width).2 hp
    obtain ⟨rfl, hreg⟩ := permitted_ok hr
    exact ⟨fun h => ⟨step_read h, readReg s r, by simp [readReply, hr]⟩,
      fun h => step_write_ack h hreg⟩
  · next hp =>
    rw [← permitted_iff] at hp
    have hreply : readReply s off width = .error .busError := by
      simp [readReply, permitted_error hp]
    refine ⟨hreply, ?_⟩
    rintro (h | h)
    · rw [step_read h, hreply]
    · rw [step_input h]
      exact hostWrite_error (permitted_error hp)

/-- The offsets of the read-only registers (R31, R32). -/
theorem regAt_readOnly (off : BitVec 8)
    (h : off ∈ [0x00#8, 0x08#8, 0x1C#8, 0x20#8, 0x24#8] ∨
      (off.toNat % 4 = 0 ∧ 0x40 ≤ off.toNat ∧ off.toNat < 0x70)) :
    (regAt off).map Reg.access = some .ro := by
  revert off
  decide

/-- Settles O23: the listed offsets are those of read-only registers. -/
theorem readOnlyWritesIgnored : Obligations.ReadOnlyWritesIgnored := by
  intro s off data rest hin hoff
  obtain ⟨r, hr, hro⟩ := Option.map_eq_some_iff.1 (regAt_readOnly off hoff)
  have hc : r ≠ .cmd := by
    rintro rfl
    cases hro
  rw [step_writeReg hin hr hc, writeReg_ro hro]
  rfl

/-- The offsets of the write-only registers (R31, R32). -/
theorem regAt_writeOnly (off : BitVec 8)
    (h : off = 0x04#8 ∨ off ∈ [0x30#8, 0x34#8, 0x38#8, 0x3C#8] ∨
      off ∈ [0x70#8, 0x74#8, 0x78#8, 0x7C#8, 0x80#8, 0x84#8, 0x88#8, 0x8C#8]) :
    (regAt off).map Reg.access = some .wo := by
  revert off
  decide

/-- Settles O13: the listed offsets are those of write-only registers. -/
theorem constantReads : Obligations.ConstantReads := by
  intro s
  refine ⟨readReply_offset s .id, fun off hoff => ?_⟩
  obtain ⟨r, hr, hwo⟩ := Option.map_eq_some_iff.1 (regAt_writeOnly off hoff)
  simp [readReply, permitted, hr, readReg_wo hwo]

/-! ## Block registers -/

/-- Settles O15: the bytes are those of `writeLanes`. -/
theorem blockRegisterWrites : Obligations.BlockRegisterWrites := by
  constructor
  · intro s j v rest hin
    have hstep := step_writeWord (.din j) (by simp) hin
    refine ⟨writeLanes s.din j.val v, fun k => ?_, ?_⟩
    · exact writeLanes_getElem s.din j.val v k.val k.isLt
    · simpa only [writeReg, answer] using hstep
  · intro s j v rest hin
    have hstep := step_writeWord (.tagin j) (by simp) hin
    refine ⟨writeLanes s.tagin j.val v, fun k => ?_, ?_⟩
    · exact writeLanes_getElem s.tagin j.val v k.val k.isLt
    · simpa only [writeReg, answer] using hstep

/-- Lane m of register j reads byte 4j + m (R90). -/
theorem byteOfWord_readLanes {n : Nat} (v : Vector Byte n) (j : Nat) {m : Nat} (hm : m < 4) :
    byteOfWord (readLanes v j) m = byteAt v.toList (4 * j + m) := by
  have h := bytesOfWord_wordOfBytes (byteAt v.toList (4 * j)) (byteAt v.toList (4 * j + 1))
    (byteAt v.toList (4 * j + 2)) (byteAt v.toList (4 * j + 3))
  simp only [bytesOfWord, List.cons.injEq, and_true] at h
  obtain ⟨h0, h1, h2, h3⟩ := h
  match m, hm with
  | 0, _ => exact h0
  | 1, _ => exact h1
  | 2, _ => exact h2
  | 3, _ => exact h3

/-- Byte k stands in lane k mod 4 of register k / 4 (R90). -/
theorem readLanes_byte {n : Nat} (v : Vector Byte n) (k : Fin n) :
    (readLanes v (k.val / 4)).extractLsb' (8 * (k.val % 4)) 8 = v[k] := by
  have h := byteOfWord_readLanes v (k.val / 4) (Nat.mod_lt k.val (by decide : 0 < 4))
  rw [Nat.div_add_mod, byteAt_toList v k.val k.isLt] at h
  exact h

/-- Settles O16: the bytes of `readLanes`. -/
theorem blockRegisterReads : Obligations.BlockRegisterReads := by
  constructor
  · intro s k
    exact ⟨_, readReply_offset s (.dout ⟨k.val / 4, by omega⟩), readLanes_byte s.dout k⟩
  · intro s k
    exact ⟨_, readReply_offset s (.tag ⟨k.val / 4, by omega⟩), readLanes_byte s.tag k⟩

/-! ## Fields of the flag words -/

/-- One bit of a word as the field of width 1 there. -/
theorem getLsbD_of_field {w : Word} {k : Nat} {b : Bool} (h : w.extractLsb' k 1 = bit b) :
    w.getLsbD k = b := by
  have h0 := congrArg (fun x => x.getLsbD 0) h
  simpa [bit] using h0

/-- The fields of STATUS at the places of R35, LAST at bit 7 and the reserved bits being 0. -/
theorem statusWord_fields (s : State) :
    s.statusWord.extractLsb' 0 4 = s.state.code ∧ s.statusWord.extractLsb' 4 1 = bit s.busy ∧
    s.statusWord.extractLsb' 5 1 = bit s.dir ∧ s.statusWord.extractLsb' 6 1 = bit s.authOk ∧
    s.statusWord.extractLsb' 7 1 = bit s.last ∧ s.statusWord.extractLsb' 8 4 = s.err.code ∧
    s.statusWord.extractLsb' 12 5 = s.doutCnt ∧ s.statusWord.extractLsb' 17 3 = 0#3 ∧
    s.statusWord.extractLsb' 20 4 = s.rem ∧ s.statusWord.extractLsb' 24 1 = bit s.ovr ∧
    s.statusWord.extractLsb' 25 7 = 0#7 := by
  unfold State.statusWord
  refine ⟨BitVec.extractLsb'_append_eq_right, ?_, ?_, ?_, ?_, ?_, ?_, ?_, ?_, ?_, ?_⟩
  case refine_10 =>
    simp (disch := decide) only [BitVec.extractLsb'_append_eq_of_le]
    exact BitVec.extractLsb'_eq_self
  all_goals
    simp (disch := decide) only [BitVec.extractLsb'_append_eq_of_le]
    exact BitVec.extractLsb'_append_eq_right

/-- Settles O17: the fields of STATUS but LAST. -/
theorem statusFields : Obligations.StatusFields := by
  intro s
  obtain ⟨hstate, hbusy, hdir, hauth, -, herr, hcnt, hrsv, hrem, hovr, hrsv'⟩ := statusWord_fields s
  exact ⟨s.statusWord, readReply_offset s .status, hstate, getLsbD_of_field hbusy,
    getLsbD_of_field hdir, getLsbD_of_field hauth, herr, hcnt, hrsv, hrem, getLsbD_of_field hovr,
    hrsv'⟩

/-- Settles O18: the codes of the eight states and of the eight errors. -/
theorem statusCodes : Obligations.StatusCodes := by
  intro s
  obtain ⟨hstate, -, -, -, -, herr, -⟩ := statusWord_fields s
  refine ⟨s.statusWord, readReply_offset s .status, ?_, ?_⟩
  · rw [hstate]
    cases s.state <;> rfl
  · rw [herr]
    cases s.err <;> rfl

theorem last_iff (s : State) :
    s.last = true ↔ (s.state = .eStream ∨ s.state = .dStream) ∧ s.blkrem = 1#64 := by
  simp [State.last]

/-- Settles O20: LAST is bit 7 of STATUS. -/
theorem lastFlag : Obligations.LastFlag := by
  intro s
  obtain ⟨-, -, -, -, hlast, -⟩ := statusWord_fields s
  refine ⟨s.statusWord, readReply_offset s .status, ?_⟩
  rw [getLsbD_of_field hlast, last_iff]

/-- Settles O21, by R64's formula. -/
theorem irqLevel : Obligations.IrqLevel :=
  ⟨fun s => by simp [State.irq], rfl⟩

/-- A word of two flags: bits 31:2 are 0 (R46, R47). -/
theorem twoFlags_fields (b1 b0 : Bool) :
    (0#30 ++ bit b1 ++ bit b0).getLsbD 0 = b0 ∧ (0#30 ++ bit b1 ++ bit b0).getLsbD 1 = b1 ∧
      (0#30 ++ bit b1 ++ bit b0).extractLsb' 2 30 = 0#30 := by
  revert b1 b0
  decide

/-- Settles O19: each offset is its register's, and the flag words have two fields. -/
theorem registerReads : Obligations.RegisterReads := by
  intro s
  exact ⟨⟨_, readReply_offset s .intEn, twoFlags_fields s.failIe s.cmplIe⟩,
    ⟨_, readReply_offset s .intStat, twoFlags_fields s.fail s.cmpl⟩,
    readReply_offset s .lenLo, readReply_offset s .lenHi, readReply_offset s .keylen,
    readReply_offset s .blkremLo, readReply_offset s .blkremHi⟩

/-! ## Control registers -/

/-- The two enables of a word, and zeros, are its low two bits (R46). -/
theorem twoFlags_of_word (v : Word) :
    0#30 ++ bit (v.getLsbD 1) ++ bit (v.getLsbD 0) = v &&& 0x00000003#32 := by
  have hmask : ∀ i, (3#32).getLsbD (i + 2) = false := fun i => by
    rw [BitVec.getLsbD_ofNat, Nat.testBit_add]
    simp
  apply BitVec.eq_of_getLsbD_eq
  intro i hi
  simp only [bit, BitVec.getLsbD_append, BitVec.getLsbD_and]
  match i with
  | 0 => simp
  | 1 => simp
  | i + 2 => simp [hmask]

/-- Settles O22: `writeReg` of each register, and what it reads then. -/
theorem controlRegisterWrites : Obligations.ControlRegisterWrites := by
  intro s v rest
  refine ⟨fun hin => ?_, fun hin => ?_, fun hin => ?_, fun hin => ?_⟩
  · refine ⟨_, step_writeWord .intEn (by simp) hin, rfl, ?_⟩
    rw [← twoFlags_of_word]
    exact readReply_offset _ .intEn
  · rw [step_writeWord .intStat (by simp) hin]
    simp only [writeReg, State.writeIntStat, answer]
    cases v.getLsbD 0 <;> cases v.getLsbD 1 <;> simp
  · refine ⟨_, step_writeWord .lenLo (by simp) hin, rfl, ?_, ?_⟩
    · exact (readReply_offset _ .lenLo).trans
        (congrArg Reply.data BitVec.extractLsb'_append_eq_right)
    · exact (readReply_offset _ .lenHi).trans
        (congrArg Reply.data BitVec.extractLsb'_append_eq_left)
  · refine ⟨_, step_writeWord .lenHi (by simp) hin, rfl, ?_, ?_⟩
    · exact (readReply_offset _ .lenHi).trans
        (congrArg Reply.data BitVec.extractLsb'_append_eq_left)
    · exact (readReply_offset _ .lenLo).trans
        (congrArg Reply.data BitVec.extractLsb'_append_eq_right)

end Sys2Proof.Machine

/-! # What a step can do to a state in order

The state of the AEO (10_state.md): one inversion lemma for each conditional `perform`, the two phases of
a command, and from them the five effects that a step can have on a state that meets `Control`. -/

namespace Sys2Proof.Machine

open Sys2Proof Sys2Proof.Safety

/-! ## What `perform` leaves -/

theorem performKeyAppend_ok {m : Nat} {n : BitVec 5} {p : Snap} {s v : State}
    (h : performKeyAppend m n p s = .ok v) :
    p.keylen.toNat + n.toNat ≤ m ∧
      v = { s with secret := p.secret ++ p.counted n, keylen := p.keylen + n.setWidth 32 } := by
  unfold performKeyAppend at h
  split at h
  · cases h
  · cases h
    exact ⟨by omega, rfl⟩

theorem performDecStart_ok {p : Snap} {s v : State} (h : performDecStart p s = .ok v) :
    wellFormedLen p.len.toNat = true ∧
      v = { opClear s with
        err := .none, dir := true, state := .dIv
        blkrem := BitVec.ofNat 64 (containerBlocks p.len.toNat) } := by
  unfold performDecStart at h
  split at h
  · cases h
    exact ⟨‹_›, rfl⟩
  · cases h

theorem performTagCheck_ok {P : Config.Params} {p : Snap} {s v : State}
    (h : performTagCheck P p s = .ok v) :
    ctEq (P.mac s.wk s.mmsg) p.tagin = true ∧
      v = { doneClear s with authOk := true, state := .done } := by
  unfold performTagCheck at h
  split at h
  · cases h
    exact ⟨‹_›, rfl⟩
  · cases h

/-- ENC_BLOCK streams its ciphertext block c, and the last one ends the operation (R262, R263). -/
theorem performEncBlock_ok {P : Config.Params} {p : Snap} {s v : State}
    (h : performEncBlock P p s = .ok v) :
    ∃ c : Block, c = P.encipher s.wk (xorBlock (filledBuf p s) s.chain) ∧
      ((s.blkrem - 1#64 ≠ 0#64 ∧ v = { s with
          buf := filledBuf p s, chain := c, mmsg := s.mmsg ++ c.toList, dout := c
          doutCnt := 16#5, blkrem := s.blkrem - 1#64 }) ∨
       (s.blkrem - 1#64 = 0#64 ∧ v = { doneClear s with
          dout := c, doutCnt := 16#5, blkrem := 0#64, state := .done
          tag := P.mac s.wk (s.mmsg ++ c.toList) })) := by
  refine ⟨_, rfl, ?_⟩
  simp only [performEncBlock] at h
  split at h
  · next h0 =>
    cases h
    refine .inr ⟨h0, ?_⟩
    rw [← h0]
    rfl
  · next h0 =>
    cases h
    exact .inl ⟨h0, rfl⟩

/-- Only KEY_CLEAR and KEY_APPEND write SECRET and KEYLEN (R214, R216). -/
theorem perform_keeps_secret {P : Config.Params} {i : Instr} {p : Snap} {s v : State}
    (hk : i ≠ .keyClear) (ha : ∀ n, i ≠ .keyAppend n) (h : perform P i p s = .ok v) :
    v.secret = s.secret ∧ v.keylen = s.keylen := by
  cases i with
  | keyClear => exact absurd rfl hk
  | keyAppend n => exact absurd rfl (ha n)
  | decStart => obtain ⟨_, rfl⟩ := performDecStart_ok h; exact ⟨rfl, rfl⟩
  | encBlock =>
    obtain ⟨c, -, ⟨_, rfl⟩ | ⟨_, rfl⟩⟩ := performEncBlock_ok h <;> exact ⟨rfl, rfl⟩
  | tagCheck => obtain ⟨_, rfl⟩ := performTagCheck_ok h; exact ⟨rfl, rfl⟩
  | abort | encStart | nameAppend n | ivGen | ivLoad | decBlock => cases h; exact ⟨rfl, rfl⟩

/-! ## The AEO at rest -/

/-- An AEO that is not BUSY, with no bookkeeping of a pending command left (R63, R150, R151). -/
def AtRest (s : State) : Prop :=
  s.busy = false ∧ s.pend = none ∧ s.abrt = false ∧ s.ovr = false ∧ s.completing = none

theorem control_of_atRest {s : State} (h : AtRest s) : Control s := by
  obtain ⟨hb, hp, ha, ho, hc⟩ := h
  exact ⟨hc, by simp [hb, hp], fun _ => ⟨ha, ho⟩, fun p h => by simp [hp] at h⟩

theorem atRest_of_control {s : State} (h : Control s) (hb : s.busy = false) : AtRest s := by
  obtain ⟨hc, hp, hf, -⟩ := h
  obtain ⟨ha, ho⟩ := hf hb
  exact ⟨hb, by simpa [hb] using hp.symm, ha, ho, hc⟩

theorem endStep_finishOk_atRest (s : State) : AtRest (endStep (finishOk s)) :=
  ⟨rfl, rfl, rfl, rfl, rfl⟩

theorem endStep_raiseError_atRest (e : ErrCode) (s : State) : AtRest (endStep (raiseError e s)) :=
  ⟨rfl, rfl, rfl, rfl, rfl⟩

/-- No `perform` sets a pending command, BUSY, ABRT or OVR (R154). -/
theorem perform_atRest {P : Config.Params} {i : Instr} {p : Snap} {s v : State} (hs : AtRest s)
    (h : perform P i p s = .ok v) : AtRest v := by
  obtain ⟨hb, hp, ha, ho, hc⟩ := hs
  cases i with
  | abort => cases h; exact ⟨hb, hp, ha, rfl, hc⟩
  | keyAppend n => obtain ⟨_, rfl⟩ := performKeyAppend_ok h; exact ⟨hb, hp, ha, ho, hc⟩
  | decStart => obtain ⟨_, rfl⟩ := performDecStart_ok h; exact ⟨hb, hp, ha, ho, hc⟩
  | encBlock =>
    obtain ⟨c, -, ⟨_, rfl⟩ | ⟨_, rfl⟩⟩ := performEncBlock_ok h <;> exact ⟨hb, hp, ha, ho, hc⟩
  | tagCheck => obtain ⟨_, rfl⟩ := performTagCheck_ok h; exact ⟨hb, hp, ha, ho, hc⟩
  | keyClear | encStart | nameAppend n | ivGen | ivLoad | decBlock =>
    cases h
    exact ⟨hb, hp, ha, ho, hc⟩

/-- At rest, a success within the acceptance step is what a completion would leave (R150, R151). -/
theorem setCmpl_of_atRest {s : State} (h : AtRest s) : setCmpl s = endStep (finishOk s) := by
  obtain ⟨hb, hp, ha, ho, hc⟩ := h
  simp only [setCmpl, endStep, finishOk, hb, hp, ha, ho, hc]

/-! ## The two phases of a command -/

/-- All that a word written to CMD can do: it finds BUSY, it is illegal, or it is a command (R150). -/
theorem present_cases {w : Word} {s t : State} (h : present w s = .next t) :
    (s.busy = true ∧ t = whileBusy (w == 0x00000001#32) s) ∨
    (s.busy = false ∧ t = raiseError .illegalCmd s) ∨
    (s.busy = false ∧ ∃ i, decode w = .ok i ∧ exec i s = .next t) := by
  unfold present at h
  split at h
  · next hb =>
    cases h
    exact .inl ⟨hb, rfl⟩
  · next hb =>
    rw [Bool.not_eq_true] at hb
    split at h
    · next i hi => exact .inr (.inr ⟨hb, i, hi, h⟩)
    · cases h
      exact .inr (.inl ⟨hb, rfl⟩)

/-- All that a completion step can do: run an immediate-class command into BUSY (log entry 12), raise
an error, or end in the results of the pending ABORT or of the command itself (R151). -/
theorem exec_completing_cases {p : Pending} {pf : Bool} {s t : State} (hb : s.busy = true)
    (hc : s.completing = some pf) (hp : s.pend = some p) (h : exec p.cmd s = .next t) :
    (p.cmd.class = .immediate ∧ t = whileBusy (p.cmd == .abort) s) ∨
    (p.cmd.class = .busy ∧ ∃ e, e ≠ .none ∧ t = endStep (raiseError e s)) ∨
    (p.cmd.class = .busy ∧ ∃ i v, (i = .abort ∨ i = p.cmd) ∧
      perform Config.params i p.snap s = .ok v ∧ t = endStep (finishOk v)) := by
  cases hk : p.cmd.class with
  | immediate =>
    rw [exec_immediate s hk, acceptThen_of_busy hb] at h
    cases h
    exact .inl ⟨rfl, rfl⟩
  | busy =>
    rw [exec_completes hk hc hp] at h
    cases h
    rcases complete_cases (!(calls Config.params p.cmd p.snap s).isEmpty) pf
        (perform Config.params p.cmd p.snap) s with
      ⟨_, h⟩ | ⟨_, _, h⟩ | ⟨_, _, _, _, h⟩ | ⟨_, _, _, v, hv, h⟩ | ⟨_, _, _, e, he, h⟩
    · exact .inr (.inr ⟨rfl, .abort, abortActions s, .inl rfl, rfl, h⟩)
    · exact .inr (.inl ⟨rfl, _, by simp, h⟩)
    · exact .inr (.inl ⟨rfl, _, by simp, h⟩)
    · exact .inr (.inr ⟨rfl, p.cmd, v, .inr rfl, hv, h⟩)
    · exact .inr (.inl ⟨rfl, e, perform_error he, h⟩)

/-! ## The effects of a step -/

/-- t differs from s at most in ABRT and OVR, in what a register write reaches, and in the model's own
fields (R153). -/
def ResultsHeld (s t : State) : Prop :=
  t = { s with
    abrt := t.abrt, ovr := t.ovr,
    din := t.din, tagin := t.tagin, len := t.len,
    cmplIe := t.cmplIe, failIe := t.failIe, cmpl := t.cmpl, fail := t.fail,
    completing := t.completing, inputs := t.inputs, reply := t.reply }

theorem ResultsHeld.whileBusy (b : Bool) (s : State) : ResultsHeld s (whileBusy b s) := by
  cases b <;> rfl

/-- s with its next action taken: `rest` comes after it, and `c` is the draw of a completion step. -/
def taken (s : State) (rest : List Input) (c : Option Bool) (r : Reply) : State :=
  { s with inputs := rest, completing := c, reply := r }

/-- All that a step can do, the accesses that run no command taken together. -/
theorem step_kinds {s t : State} (h : step s = .next t) :
    (ResultsHeld s t ∧ t.abrt = s.abrt ∧ t.ovr = s.ovr ∧
      (s.completing = none → t.completing = none)) ∨
    (∃ rest, s.inputs = .reset :: rest ∧ t = { State.reset with inputs := rest }) ∨
    (∃ rest data, s.inputs = .write 0x04#8 .w32 data :: rest ∧
      present (data.setWidth 32) (taken s rest none .ack) = .next t) ∨
    (∃ rest pf p, s.inputs = .complete pf :: rest ∧ s.busy = true ∧ s.pend = some p ∧
      exec p.cmd (taken s rest (some pf) s.reply) = .next t) := by
  rcases step_cases h with ⟨_, rfl⟩ | ⟨rest, r, rfl⟩ | hreset | ⟨rest, off, data, r, _, _, _, rfl⟩ |
    hcmd | hcompl
  · exact .inl ⟨rfl, rfl, rfl, id⟩
  · exact .inl ⟨rfl, rfl, rfl, fun _ => rfl⟩
  · exact .inr (.inl hreset)
  · obtain ⟨din, tagin, len, cmplIe, failIe, cmpl, fail, hw⟩ :=
      writeReg_reaches { s with inputs := rest, completing := none } r (data.setWidth 32)
    rw [hw]
    exact .inl ⟨rfl, rfl, rfl, fun _ => rfl⟩
  · exact .inr (.inr (.inl hcmd))
  · exact .inr (.inr (.inr hcompl))

/-- The five effects of a step on a state that meets `Control`. A pending ABORT's actions count as the
`perform` of ABORT, which they are (R151, R160). -/
inductive Effect (s : State) : State → Prop where
  /-- A host access, an idle step, or a command word that finds BUSY. -/
  | held {t : State} (same : ResultsHeld s t) (completing : t.completing = none)
      (flags : s.busy = false → t.abrt = s.abrt ∧ t.ovr = s.ovr) : Effect s t
  /-- The platform's reset (R340). -/
  | reset (rest : List Input) : Effect s { State.reset with inputs := rest }
  /-- Error entry, at acceptance or at completion (R305). -/
  | raised (rest : List Input) (c : Option Bool) (r : Reply) {e : ErrCode} (code : e ≠ .none) :
      Effect s (endStep (raiseError e (taken s rest c r)))
  /-- A busy-class command taken into PEND (R150). -/
  | accepted (rest : List Input) (r : Reply) {i : Instr} (cls : i.class = .busy)
      (wf : i.WellFormed) (allowed : legal i s.state = true) :
      Effect s (hold i (snapshot s) (taken s rest none r))
  /-- The results of a command, on the operands of its snapshot (R150, R151). -/
  | performed (rest : List Input) (c : Option Bool) (r : Reply) {i : Instr} {p : Snap} {v : State}
      (wf : i.WellFormed) (allowed : legal i s.state = true) (secret : p.secret = s.secret)
      (keylen : p.keylen = s.keylen)
      (ok : perform Config.params i p (taken s rest c r) = .ok v) :
      Effect s (endStep (finishOk v))

/-- Taking the next action outside a completion step keeps the bookkeeping. -/
theorem control_taken {s : State} (hs : Control s) (rest : List Input) (r : Reply) :
    Control (taken s rest none r) := ⟨rfl, hs.2⟩

/-- The effect of a command word written to CMD. -/
theorem effect_of_present {s t : State} {rest : List Input} {r : Reply} {w : Word} (hs : Control s)
    (h : present w (taken s rest none r) = .next t) : Effect s t := by
  rcases present_cases h with ⟨hb, rfl⟩ | ⟨_, rfl⟩ | ⟨hb, i, -, h⟩
  · refine .held (ResultsHeld.whileBusy _ (taken s rest none r)) ?_ fun hb' => ?_
    · cases w == 0x00000001#32 <;> rfl
    · exact absurd (hb.symm.trans hb') (by simp)
  · exact .raised rest none r (e := .illegalCmd) (by simp)
  · rcases exec_presented_cases rfl hb h with ⟨_, rfl⟩ | ⟨_, _, rfl⟩ | ⟨hw, hl, hk, rfl⟩ |
      ⟨hw, hl, _, rfl⟩
    · exact .raised rest none r (e := .illegalCmd) (by simp)
    · exact .raised rest none r (e := .badState) (by simp)
    · exact .accepted rest r hk hw hl
    · generalize hv : perform Config.params i _ _ = res
      cases res with
      | error e => exact .raised rest none r (perform_error hv)
      | ok v =>
        have hrest : AtRest (taken s rest none r) := atRest_of_control (control_taken hs rest r) hb
        rw [commit, setCmpl_of_atRest (perform_atRest hrest hv)]
        exact .performed rest none r hw hl rfl rfl hv

/-- The effect of a completion step. -/
theorem effect_of_completion {s t : State} {rest : List Input} {pf : Bool} {p : Pending}
    (hs : Control s) (hb : s.busy = true) (hp : s.pend = some p)
    (h : exec p.cmd (taken s rest (some pf) s.reply) = .next t) : Effect s t := by
  obtain ⟨-, -, -, hpend⟩ := hs
  obtain ⟨hk, hw, hl, hsec, hlen⟩ := hpend p hp
  rcases exec_completing_cases (s := taken s rest (some pf) s.reply) (pf := pf) hb rfl hp h with
    ⟨hk', _⟩ | ⟨_, e, he, rfl⟩ | ⟨_, i, v, hi, hv, rfl⟩
  · rw [hk] at hk'
    cases hk'
  · exact .raised rest _ _ he
  · rcases hi with rfl | rfl
    · exact .performed rest _ _ rfl rfl hsec hlen hv
    · exact .performed rest _ _ hw hl hsec hlen hv

/-- All that a step can do to a state that meets `Control`. -/
theorem effect_of_step {s t : State} (hs : Control s) (h : step s = .next t) : Effect s t := by
  rcases step_kinds h with ⟨hsame, ha, ho, hc⟩ | ⟨rest, _, rfl⟩ | ⟨rest, data, _, h⟩ |
    ⟨rest, pf, p, _, hb, hp, h⟩
  · exact .held hsame (hc hs.1) fun _ => ⟨ha, ho⟩
  · exact .reset rest
  · exact effect_of_present hs h
  · exact effect_of_completion hs hb hp h

/-! ## The bookkeeping of the two phases is kept -/

theorem Effect.keeps_control {s t : State} (hs : Control s) (h : Effect s t) : Control t := by
  cases h with
  | held same completing flags =>
    obtain ⟨-, hbusy, hflags, hpend⟩ := hs
    rw [ResultsHeld] at same
    have hb : t.busy = s.busy := by rw [same]
    have hp : t.pend = s.pend := by rw [same]
    have hq : t.state = s.state := by rw [same]
    have hsec : t.secret = s.secret := by rw [same]
    have hlen : t.keylen = s.keylen := by rw [same]
    refine ⟨completing, by rw [hb, hp, hbusy], fun h => ?_, fun p h => ?_⟩
    · rw [hb] at h
      rw [(flags h).1, (flags h).2]
      exact hflags h
    · rw [hq, hsec, hlen]
      exact hpend p (hp.symm.trans h)
  | reset rest => exact control_of_atRest ⟨rfl, rfl, rfl, rfl, rfl⟩
  | raised rest c r code => exact control_of_atRest (endStep_raiseError_atRest _ _)
  | accepted rest r cls wf allowed =>
    refine ⟨rfl, rfl, fun h => (nomatch h), fun p h => ?_⟩
    cases h
    exact ⟨cls, wf, allowed, rfl, rfl⟩
  | performed rest c r wf allowed secret keylen ok =>
    exact control_of_atRest (endStep_finishOk_atRest _)

/-- Settles O53: each of the five effects of a step keeps the bookkeeping. -/
theorem stepKeepsControl : Obligations.StepKeepsControl := by
  intro s t hs h
  exact (effect_of_step hs h).keeps_control hs

end Sys2Proof.Machine

/-! # The machine's invariant is kept

What `Inv` says beyond `Control` reads only elements that error entry and `perform` write, so each
command's `perform` is shown to keep it, and the effects of a step do the rest. -/

namespace Sys2Proof.Machine

open Sys2Proof Sys2Proof.Safety

/-- The invariant but for the bookkeeping of acceptance and completion. -/
def DataInv (s : State) : Prop :=
  SecretBounded s ∧ Cleared s ∧ Verdict s ∧ OutputTrimmed s ∧ Counted s ∧ Chained s

/-! ## The states of the commands, and states outside an operation -/

/-- The states in which no operation is under way (R155, R156). -/
def Outside (q : SeqState) : Prop := q = .idle ∨ q = .done ∨ q = .error

theorem legal_keyClear {q : SeqState} : legal .keyClear q = true ↔ Outside q := by
  cases q <;> simp [legal, Outside]

theorem legal_keyAppend {n : BitVec 5} {q : SeqState} :
    legal (.keyAppend n) q = true ↔ Outside q := legal_keyClear

theorem legal_encStart {q : SeqState} : legal .encStart q = true ↔ Outside q := legal_keyClear

theorem legal_decStart {q : SeqState} : legal .decStart q = true ↔ Outside q := legal_keyClear

theorem chained_of_outside {s : State} (hq : Outside s.state) : Chained s := by
  intro h
  rcases hq with hq | hq | hq <;> simp [hq] at h

/-- Outside an operation with everything zeroized, only SECRET, the verdict and DOUT are left to say
something about. -/
theorem dataInv_of_zeroized {s : State} (hq : Outside s.state) (hz : Zeroized s)
    (hb : s.blkrem = 0#64) (hsec : SecretBounded s) (hver : Verdict s) (hout : OutputTrimmed s) :
    DataInv s := by
  refine ⟨hsec, fun _ => ⟨hz, hb⟩, hver, hout, ?_, chained_of_outside hq⟩
  obtain ⟨-, -, -, -, -, -, hl⟩ := hz
  rcases hq with hq | hq | hq <;> simp [Counted, hq, hb, hl]

theorem opClear_zeroized (s : State) : Zeroized (opClear s) := ⟨rfl, rfl, rfl, rfl, rfl, rfl, rfl⟩

theorem outputTrimmed_of_zero {s : State} (hd : s.dout = zeroBlock) (hc : s.doutCnt = 0#5) :
    OutputTrimmed s := by
  refine ⟨by simp [hc], fun i _ => ?_⟩
  rw [hd]
  exact zeroBlock_getElem i.val i.isLt

/-- The tail of an output cut to n bytes is zero (R285). -/
theorem outputTrimmed_overlay {s : State} {n : Nat} {b : Block} (hn : n ≤ Config.blockLen)
    (hd : s.dout = overlay n b zeroBlock) (hc : s.doutCnt = BitVec.ofNat 5 n) :
    OutputTrimmed s := by
  have hcnt : s.doutCnt.toNat = n := by
    rw [Config.blockLen_eq] at hn
    rw [hc]
    exact Nat.mod_eq_of_lt (by omega)
  refine ⟨hcnt.trans_le hn, fun i h => ?_⟩
  rw [hcnt] at h
  simp [hd, Nat.not_lt.2 h]

/-- A full block of output has no tail to be zero (R42, R52). -/
theorem outputTrimmed_of_full {s : State} (hc : s.doutCnt = 16#5) : OutputTrimmed s := by
  refine ⟨by simp [hc], fun i h => absurd i.isLt ?_⟩
  simp [hc] at h
  omega

theorem reset_dataInv (rest : List Input) : DataInv { State.reset with inputs := rest } :=
  dataInv_of_zeroized (.inl rfl) ⟨rfl, rfl, rfl, rfl, rfl, rfl, rfl⟩ rfl ⟨rfl, Nat.zero_le _⟩
    (by simp [Verdict, State.reset]) (outputTrimmed_of_zero rfl rfl)

/-- Error entry reaches the invariant from every state whose SECRET is bounded (R305). -/
theorem raiseError_dataInv {e : ErrCode} (he : e ≠ .none) {s : State} (h : SecretBounded s) :
    DataInv (raiseError e s) :=
  dataInv_of_zeroized (.inr (.inr rfl)) (opClear_zeroized s) rfl h (by simp [Verdict, he])
    (outputTrimmed_of_zero rfl rfl)

/-- So do the actions of ABORT (R160). -/
theorem abortActions_dataInv {s : State} (h : SecretBounded s) : DataInv (abortActions s) :=
  dataInv_of_zeroized (.inl rfl) (opClear_zeroized s) rfl h (by simp [Verdict])
    (outputTrimmed_of_zero rfl rfl)

/-! ## The arithmetic of the counters -/

theorem blockCount_pos (L : Nat) : 1 ≤ blockCount L := by
  simp only [blockCount, ceilDiv, Config.blockLen]
  split
  · omega
  · split <;> omega

theorem blockCount_le {L : Nat} (h : L < 2 ^ 64) : blockCount L ≤ Config.maxBlocks := by
  simp only [blockCount, ceilDiv, Config.blockLen, Config.maxBlocks_eq]
  split
  · omega
  · split <;> omega

theorem lastCount_le (L : Nat) : lastCount L ≤ Config.blockLen := by
  simp only [lastCount, blockCount, ceilDiv, Config.blockLen]
  split
  · omega
  · split <;> omega

/-- LASTCNT agrees with the remainder of the length (R133, R243). -/
theorem lastCount_mod (L : Nat) : lastCount L % Config.blockLen = L % Config.blockLen := by
  simp only [lastCount, blockCount, ceilDiv, Config.blockLen]
  split
  · omega
  · split <;> omega

theorem containerBlocks_le {CL : Nat} (h : CL < 2 ^ 64) : containerBlocks CL ≤ Config.maxBlocks := by
  simp only [containerBlocks, Config.minContainer, Config.blockLen, Config.maxBlocks_eq,
    Config.tagLen]
  omega

theorem lastCount_toNat (L : Nat) : (BitVec.ofNat 5 (lastCount L)).toNat = lastCount L := by
  have := lastCount_le L
  rw [Config.blockLen_eq] at this
  exact Nat.mod_eq_of_lt (by omega)

theorem remainderOf_toNat (L : Size) : (remainderOf L).toNat = L.toNat % Config.blockLen := by
  rw [remainderOf, lowNibble_eq]
  simp only [BitVec.toNat_setWidth, Config.remBits, Config.blockLen]
  omega

/-- The first byte that ENC_START feeds to the hash holds REM (R70). -/
theorem lowNibble_le64 (L : Size) : lowNibble (byteAt (le64 L) 0) = remainderOf L := by
  have h : byteAt (le64 L) 0 = L.setWidth 8 := by
    simp [byteAt, le64, List.getD, BitVec.setWidth_eq_extractLsb']
  rw [h, remainderOf]

theorem byteAt_append {a : Bytes} (b : Bytes) {k : Nat} (h : k < a.length) :
    byteAt (a ++ b) k = byteAt a k := by
  simp [byteAt, List.getD, List.getElem?_append_left h]

theorem one_le_toNat {x : BitVec 64} (h : x ≠ 0#64) : 1 ≤ x.toNat := by
  bv_omega

/-- BLKREM counts down without wrapping (R66). -/
theorem blkrem_pred_toNat {x : BitVec 64} (h : 1 ≤ x.toNat) : (x - 1#64).toNat = x.toNat - 1 := by
  bv_omega

theorem blkrem_pred_le {x : BitVec 64} (h : 1 ≤ x.toNat) : (x - 1#64).toNat ≤ x.toNat := by
  rw [blkrem_pred_toNat h]
  exact Nat.sub_le _ _

theorem decYield_le (s : State) : decYield s ≤ Config.blockLen := by
  unfold decYield
  split
  · exact Nat.le_of_lt (Config.remainder_lt s.rem)
  · exact Nat.le_refl _

/-- The last 16 bytes of IV ‖ MMSG, after a ciphertext block has been fed to the MAC (R69). -/
theorem chain_after_block (iv c : Block) (m : Bytes) :
    (iv.toList ++ (m ++ c.toList)).drop (m ++ c.toList).length = c.toList := by
  rw [← List.append_assoc]
  exact List.drop_left' (by simp; omega)

/-! ## States within an operation -/

/-- The flags during an operation in the direction d: no error, no verdict and no tag are shown, those
of an earlier operation included (R39, R41, R53). -/
def Running (s : State) (d : Bool) : Prop :=
  s.err = .none ∧ s.authOk = false ∧ s.tag = zeroTag ∧ s.dir = d

/-- While blocks are streamed: the working key and the chaining value (R57, R69). -/
def Streaming (s : State) : Prop :=
  s.wk = stretchKey Config.params s.secret s.iv ∧
    (s.iv.toList ++ s.mmsg).drop s.mmsg.length = s.chain.toList

theorem running_encrypt {s : State} (h : Verdict s) (hq : s.state = .eName ∨ s.state = .eStream) :
    Running s false := by
  obtain ⟨herr, hauth, hdir, -, htag⟩ := h
  refine ⟨?_, ?_, ?_, hdir hq⟩ <;> rcases hq with hq | hq <;> simp_all

theorem running_decrypt {s : State} (h : Verdict s)
    (hq : s.state = .dIv ∨ s.state = .dStream ∨ s.state = .dTag) : Running s true := by
  obtain ⟨herr, hauth, -, hdir, htag⟩ := h
  refine ⟨?_, ?_, ?_, hdir hq⟩ <;> rcases hq with hq | hq | hq <;> simp_all

theorem verdict_encrypt {s : State} (hq : s.state = .eName ∨ s.state = .eStream)
    (h : Running s false) : Verdict s := by
  obtain ⟨herr, hauth, htag, hdir⟩ := h
  rcases hq with hq | hq <;> simp [Verdict, hq, herr, hauth, htag, hdir]

theorem verdict_decrypt {s : State} (hq : s.state = .dIv ∨ s.state = .dStream ∨ s.state = .dTag)
    (h : Running s true) : Verdict s := by
  obtain ⟨herr, hauth, htag, hdir⟩ := h
  rcases hq with hq | hq | hq <;> simp [Verdict, hq, herr, hauth, htag, hdir]

/-- What the invariant asks of a state in E_NAME. -/
theorem dataInv_eName {s : State} (hq : s.state = .eName) (hsec : SecretBounded s)
    (hrun : Running s false) (hout : OutputTrimmed s) (hpos : 1 ≤ s.blkrem.toNat)
    (hmax : s.blkrem.toNat ≤ Config.maxBlocks) (hlen : Config.sizeLen ≤ s.hmsg.length)
    (hnib : lowNibble (byteAt s.hmsg 0) = s.rem)
    (hlast : s.lastCnt.toNat % Config.blockLen = s.rem.toNat)
    (hle : s.lastCnt.toNat ≤ Config.blockLen) : DataInv s := by
  refine ⟨hsec, ?_, verdict_encrypt (.inl hq) hrun, hout,
    ⟨fun _ => ⟨hpos, hlen, hnib⟩, ?_, ?_, ?_, fun _ => hlast, hle, hmax⟩, ?_⟩
  all_goals simp [Cleared, Chained, hq]

/-- What the invariant asks of a state in E_STREAM. -/
theorem dataInv_eStream {s : State} (hq : s.state = .eStream) (hsec : SecretBounded s)
    (hrun : Running s false) (hout : OutputTrimmed s) (hpos : 1 ≤ s.blkrem.toNat)
    (hmax : s.blkrem.toNat ≤ Config.maxBlocks) (hnib : lowNibble (lastByte s.iv) = s.rem)
    (hlast : s.lastCnt.toNat % Config.blockLen = s.rem.toNat)
    (hle : s.lastCnt.toNat ≤ Config.blockLen) (hstr : Streaming s) : DataInv s := by
  refine ⟨hsec, ?_, verdict_encrypt (.inr hq) hrun, hout,
    ⟨?_, fun _ => ⟨hpos, hnib⟩, ?_, ?_, fun _ => hlast, hle, hmax⟩, fun _ => hstr⟩
  all_goals simp [Cleared, hq]

/-- What the invariant asks of a state in D_STREAM, or in D_TAG when no block is left. -/
theorem dataInv_decrypt {s : State} (hq : s.state = if s.blkrem = 0#64 then .dTag else .dStream)
    (hsec : SecretBounded s) (hrun : Running s true) (hout : OutputTrimmed s)
    (hmax : s.blkrem.toNat ≤ Config.maxBlocks) (hnib : lowNibble (lastByte s.iv) = s.rem)
    (hle : s.lastCnt.toNat ≤ Config.blockLen) (hstr : Streaming s) : DataInv s := by
  by_cases h0 : s.blkrem = 0#64
  · rw [if_pos h0] at hq
    refine ⟨hsec, ?_, verdict_decrypt (.inr (.inr hq)) hrun, hout,
      ⟨?_, ?_, ?_, fun _ => h0, ?_, hle, hmax⟩, fun _ => hstr⟩
    all_goals simp [Cleared, hq]
  · rw [if_neg h0] at hq
    refine ⟨hsec, ?_, verdict_decrypt (.inr (.inl hq)) hrun, hout,
      ⟨?_, ?_, fun _ => ⟨one_le_toNat h0, hnib⟩, ?_, ?_, hle, hmax⟩, fun _ => hstr⟩
    all_goals simp [Cleared, hq]

/-! ## Each command's `perform` keeps it -/

theorem performKeyClear_keeps {p : Snap} {s v : State} (hs : DataInv s) (hq : Outside s.state)
    (h : performKeyClear p s = .ok v) : DataInv v := by
  obtain ⟨-, hclr, hver, hout, hcnt, -⟩ := hs
  cases h
  exact ⟨⟨rfl, Nat.zero_le _⟩, hclr, hver, hout, hcnt, chained_of_outside hq⟩

/-- The sum of KEY_APPEND does not wrap, since SECRET_MAX fits 32 bits (R18, R216). -/
theorem performKeyAppend_keeps {n : BitVec 5} {p : Snap} {s v : State} (hs : DataInv s)
    (hq : Outside s.state) (hn : n.toNat ≤ Config.maxCount) (hsec : p.secret = s.secret)
    (hlen : p.keylen = s.keylen)
    (h : performKeyAppend Config.params.secretMax n p s = .ok v) : DataInv v := by
  obtain ⟨⟨hkey, -⟩, hclr, hver, hout, hcnt, -⟩ := hs
  obtain ⟨hmax, rfl⟩ := performKeyAppend_ok h
  have hlt := Config.params.secretMax_lt
  rw [hlen] at hmax
  have hsum : (p.keylen + n.setWidth 32).toNat = s.keylen.toNat + n.toNat := by
    rw [hlen, BitVec.toNat_add, BitVec.toNat_setWidth]
    omega
  have happ : (p.secret ++ p.counted n).length = s.keylen.toNat + n.toNat := by
    simp only [Config.maxCount] at hn
    simp [Snap.counted, firstBytes, hsec, hkey, hn]
  exact ⟨⟨hsum.trans happ.symm, happ.trans_le hmax⟩, hclr, hver, hout, hcnt, chained_of_outside hq⟩

theorem performEncStart_keeps {p : Snap} {s v : State} (hs : DataInv s)
    (h : performEncStart p s = .ok v) : DataInv v := by
  cases h
  have hN := blockCount_le (Config.size_lt p.len)
  have hblk : (BitVec.ofNat 64 (blockCount p.len.toNat)).toNat = blockCount p.len.toNat :=
    Nat.mod_eq_of_lt (by rw [Config.maxBlocks_eq] at hN; omega)
  have hlast : (BitVec.ofNat 5 (lastCount p.len.toNat)).toNat = lastCount p.len.toNat :=
    lastCount_toNat _
  refine dataInv_eName rfl hs.1 ⟨rfl, rfl, rfl, rfl⟩ (outputTrimmed_of_zero rfl rfl)
    ((blockCount_pos _).trans_eq hblk.symm) (hblk.trans_le hN) (le64_length p.len).ge
    (lowNibble_le64 _) ?_ (hlast.trans_le (lastCount_le _))
  exact (congrArg (· % Config.blockLen) hlast).trans
    ((lastCount_mod _).trans (remainderOf_toNat _).symm)

theorem performNameAppend_keeps {n : BitVec 5} {p : Snap} {s v : State} (hs : DataInv s)
    (hq : s.state = .eName) (h : performNameAppend n p s = .ok v) : DataInv v := by
  obtain ⟨hsec, -, hver, hout, ⟨hname, -, -, -, hlast, hle, hmax⟩, -⟩ := hs
  cases h
  obtain ⟨hpos, hlen, hnib⟩ := hname hq
  rw [← byteAt_append (p.counted n) (Nat.lt_of_lt_of_le (by decide) hlen)] at hnib
  exact dataInv_eName hq hsec (running_encrypt hver (.inl hq)) hout hpos hmax
    (hlen.trans (by simp)) hnib (hlast (.inl hq)) hle

theorem performIvGen_keeps {p : Snap} {s v : State} (hs : DataInv s) (hq : s.state = .eName)
    (hsec : p.secret = s.secret) (h : performIvGen Config.params p s = .ok v) : DataInv v := by
  obtain ⟨hbound, -, hver, -, ⟨hname, -, -, -, hlast, hle, hmax⟩, -⟩ := hs
  have hrun := running_encrypt hver (.inl hq)
  cases h
  refine dataInv_eStream rfl hbound hrun (outputTrimmed_of_full rfl)
    (hname hq).1 hmax ?_ (hlast (.inl hq)) hle ⟨?_, ?_⟩
  · simp [ivOfMessage]
  · rw [hsec]
  · simp

theorem performEncBlock_keeps {P : Config.Params} {p : Snap} {s v : State} (hs : DataInv s)
    (hq : s.state = .eStream) (h : performEncBlock P p s = .ok v) : DataInv v := by
  obtain ⟨hbound, -, hver, -, ⟨-, hes, -, -, hlast, hle, hmax⟩, hchain⟩ := hs
  have hrun := running_encrypt hver (.inr hq)
  obtain ⟨hpos, hnib⟩ := hes hq
  obtain ⟨hwk, -⟩ := hchain (.inl hq)
  obtain ⟨c, -, ⟨hne, rfl⟩ | ⟨-, rfl⟩⟩ := performEncBlock_ok h
  · exact dataInv_eStream hq hbound hrun (outputTrimmed_of_full rfl) (one_le_toNat hne)
      ((blkrem_pred_le hpos).trans hmax) hnib (hlast (.inr hq)) hle ⟨hwk, chain_after_block _ _ _⟩
  · obtain ⟨herr, hauth, -, hdir⟩ := hrun
    exact dataInv_of_zeroized (.inr (.inl rfl)) ⟨rfl, rfl, rfl, rfl, rfl, rfl, rfl⟩ rfl hbound
      (by simp [Verdict, herr, hauth, hdir]) (outputTrimmed_of_full rfl)

theorem performDecStart_keeps {p : Snap} {s v : State} (hs : DataInv s)
    (h : performDecStart p s = .ok v) : DataInv v := by
  obtain ⟨-, rfl⟩ := performDecStart_ok h
  have hN := containerBlocks_le (Config.size_lt p.len)
  refine ⟨hs.1, ?_, verdict_decrypt (.inl rfl) ⟨rfl, rfl, rfl, rfl⟩, outputTrimmed_of_zero rfl rfl,
    ⟨?_, ?_, ?_, ?_, ?_, Nat.zero_le _, (Nat.mod_le _ _).trans hN⟩, ?_⟩
  all_goals simp [Cleared, Chained]

theorem performIvLoad_keeps {p : Snap} {s v : State} (hs : DataInv s) (hq : s.state = .dIv)
    (hsec : p.secret = s.secret) (h : performIvLoad Config.params p s = .ok v) : DataInv v := by
  obtain ⟨hbound, -, hver, hout, ⟨-, -, -, -, -, hle, hmax⟩, -⟩ := hs
  have hrun := running_decrypt hver (.inl hq)
  cases h
  exact dataInv_decrypt rfl hbound hrun hout hmax rfl hle ⟨by rw [hsec], by simp⟩

theorem performDecBlock_keeps {P : Config.Params} {p : Snap} {s v : State} (hs : DataInv s)
    (hq : s.state = .dStream) (h : performDecBlock P p s = .ok v) : DataInv v := by
  obtain ⟨hbound, -, hver, -, ⟨-, -, hds, -, -, hle, hmax⟩, hchain⟩ := hs
  obtain ⟨hpos, hnib⟩ := hds hq
  obtain ⟨hwk, -⟩ := hchain (.inr (.inl hq))
  have hrun := running_decrypt hver (.inr (.inl hq))
  cases h
  exact dataInv_decrypt (by simp [hq]) hbound hrun
    (outputTrimmed_overlay (decYield_le s) rfl rfl) ((blkrem_pred_le hpos).trans hmax) hnib hle
    ⟨hwk, chain_after_block _ _ _⟩

theorem performTagCheck_keeps {P : Config.Params} {p : Snap} {s v : State} (hs : DataInv s)
    (hq : s.state = .dTag) (h : performTagCheck P p s = .ok v) : DataInv v := by
  obtain ⟨hbound, -, hver, hout, ⟨-, -, -, hdt, -, -, -⟩, -⟩ := hs
  obtain ⟨herr, -, htag, hdir⟩ := running_decrypt hver (.inr (.inr hq))
  obtain ⟨-, rfl⟩ := performTagCheck_ok h
  exact dataInv_of_zeroized (.inr (.inl rfl)) ⟨rfl, rfl, rfl, rfl, rfl, rfl, rfl⟩ (hdt hq) hbound
    (by simp [Verdict, herr, htag, hdir]) hout

/-- `perform` of a well-formed command, legal in STATE, keeps the invariant on the operands of a
snapshot that holds SECRET and KEYLEN (R154, R155, R217). -/
theorem perform_keeps_dataInv {i : Instr} {p : Snap} {s v : State} (hs : DataInv s)
    (hw : i.WellFormed) (hl : legal i s.state = true) (hsec : p.secret = s.secret)
    (hlen : p.keylen = s.keylen) (h : perform Config.params i p s = .ok v) : DataInv v := by
  cases i with
  | abort => cases h; exact abortActions_dataInv hs.1
  | keyClear => exact performKeyClear_keeps (p := p) hs (legal_keyClear.1 hl) h
  | keyAppend n =>
    exact performKeyAppend_keeps hs (legal_keyAppend.1 hl) (of_decide_eq_true hw) hsec hlen h
  | encStart => exact performEncStart_keeps hs h
  | nameAppend n => exact performNameAppend_keeps hs (of_decide_eq_true hl) h
  | ivGen => exact performIvGen_keeps hs (of_decide_eq_true hl) hsec h
  | encBlock => exact performEncBlock_keeps hs (of_decide_eq_true hl) h
  | decStart => exact performDecStart_keeps hs h
  | ivLoad => exact performIvLoad_keeps hs (of_decide_eq_true hl) hsec h
  | decBlock => exact performDecBlock_keeps hs (of_decide_eq_true hl) h
  | tagCheck => exact performTagCheck_keeps hs (of_decide_eq_true hl) h

/-! ## Every effect of a step keeps it -/

theorem Effect.keeps_dataInv {s t : State} (hs : DataInv s) (h : Effect s t) : DataInv t := by
  cases h with
  | held same completing flags =>
    rw [ResultsHeld] at same
    rw [same]
    exact hs
  | reset rest => exact reset_dataInv rest
  | raised rest c r code => exact raiseError_dataInv code (s := taken s rest c r) hs.1
  | accepted rest r cls wf allowed => exact hs
  | performed rest c r wf allowed secret keylen ok =>
    have hv := perform_keeps_dataInv (s := taken s rest c r) hs wf allowed secret keylen ok
    exact hv

/-- Settles O54: each of the five effects of a step keeps the invariant. -/
theorem stepKeepsInvariant : Obligations.StepKeepsInvariant := by
  intro s t hs h
  have heff : Effect s t := effect_of_step hs.1 h
  exact ⟨heff.keeps_control hs.1, heff.keeps_dataInv hs.2⟩

end Sys2Proof.Machine

/-! # Busy commands, streamed blocks and SECRET -/

namespace Sys2Proof.Machine

open Sys2Proof Sys2Proof.Safety

/-! ## BUSY -/

/-- Settles O29: of the steps from BUSY, only reset and the end of the completion step show results,
and both leave BUSY = 0. -/
theorem busyHoldsResults : Obligations.BusyHoldsResults := by
  intro s t h hb hb'
  change ResultsHeld s t
  rcases step_kinds h with ⟨hsame, -⟩ | ⟨rest, _, rfl⟩ | ⟨rest, data, _, h⟩ |
    ⟨rest, pf, p, _, _, hp, h⟩
  · exact hsame
  · cases hb'
  · rcases present_cases h with ⟨_, rfl⟩ | ⟨hnb, _⟩ | ⟨hnb, _⟩
    · exact ResultsHeld.whileBusy _ (taken s rest none .ack)
    · exact absurd hnb (by simp [taken, hb])
    · exact absurd hnb (by simp [taken, hb])
  · rcases exec_completing_cases (s := taken s rest (some pf) s.reply) (pf := pf) hb rfl hp h with
      ⟨_, rfl⟩ | ⟨_, e, _, rfl⟩ | ⟨_, i, v, _, _, rfl⟩
    · exact ResultsHeld.whileBusy _ (taken s rest (some pf) s.reply)
    · cases hb'
    · cases hb'

/-! ## SECRET -/

theorem ResultsHeld.secret {s t : State} (h : ResultsHeld s t) : t.secret = s.secret := by
  rw [h]

/-- A completion step leaves SECRET (R217). -/
theorem completion_keeps_secret {p : Pending} {pf : Bool} {s t : State} (hb : s.busy = true)
    (hc : s.completing = some pf) (hp : s.pend = some p) (h : exec p.cmd s = .next t) :
    t.secret = s.secret := by
  rcases exec_completing_cases hb hc hp h with ⟨_, rfl⟩ | ⟨_, e, _, rfl⟩ | ⟨hk, i, v, hi, hv, rfl⟩
  · exact (ResultsHeld.whileBusy _ s).secret
  · rfl
  · have hne : i ≠ .keyClear ∧ ∀ n, i ≠ .keyAppend n := by
      rcases hi with rfl | rfl
      · simp
      · constructor
        · intro h
          simp [h, Instr.class] at hk
        · intro n h
          simp [h, Instr.class] at hk
    exact (perform_keeps_secret hne.1 hne.2 hv).1

/-- A command presented to an AEO that is not BUSY changes SECRET only if it is KEY_CLEAR or
KEY_APPEND, in a state where that is legal (R214, R216). -/
theorem secret_changed_by_command {i : Instr} {s t : State} (hc : s.completing = none)
    (hb : s.busy = false) (h : exec i s = .next t) (hne : t.secret ≠ s.secret) :
    (i = .keyClear ∨ ∃ n, i = .keyAppend n) ∧ Outside s.state := by
  rcases exec_presented_cases hc hb h with ⟨_, rfl⟩ | ⟨_, _, rfl⟩ | ⟨_, _, _, rfl⟩ | ⟨_, hl, _, rfl⟩
  · exact absurd rfl hne
  · exact absurd rfl hne
  · exact absurd rfl hne
  · generalize hv : perform Config.params i (snapshot s) s = res at hne
    cases res with
    | error e => exact absurd rfl hne
    | ok v =>
      have hi : i = .keyClear ∨ ∃ n, i = .keyAppend n := by
        by_contra hi
        rw [not_or, not_exists] at hi
        exact hne (perform_keeps_secret hi.1 hi.2 hv).1
      refine ⟨hi, ?_⟩
      rcases hi with rfl | ⟨n, rfl⟩
      · exact legal_keyClear.1 hl
      · exact legal_keyAppend.1 hl

/-- Settles O58: a reset, or a command word that is decoded, is the only step that can change SECRET. -/
theorem secretOnlyByKeyCommands : Obligations.SecretOnlyByKeyCommands := by
  intro s t h hne
  rcases step_kinds h with ⟨hsame, -⟩ | ⟨rest, hin, -⟩ | ⟨rest, data, hin, h⟩ |
    ⟨rest, pf, p, _, hb, hp, h⟩
  · exact absurd hsame.secret hne
  · exact .inl ⟨rest, hin⟩
  · rcases present_cases h with ⟨_, rfl⟩ | ⟨_, rfl⟩ | ⟨hb, i, hi, h⟩
    · exact absurd (ResultsHeld.whileBusy _ _).secret hne
    · exact absurd rfl hne
    · obtain ⟨hkey, hq⟩ := secret_changed_by_command rfl hb h hne
      exact .inr ⟨rest, data, i, hin, hb, hi, hkey, hq⟩
  · exact absurd (completion_keeps_secret (s := taken s rest (some pf) s.reply) hb rfl hp h) hne

/-! ## The length of MMSG -/

/-- What R70 asks of a change of state from s to t: BLKREM is kept until streaming begins, MMSG is
empty when it begins, and each block moves 16 bytes from BLKREM's count to MMSG. -/
def StreamRule (s t : State) : Prop :=
  (s.state = .eName ∨ s.state = .dIv → t.state = s.state → t.blkrem = s.blkrem) ∧
  ((s.state = .eName ∧ t.state = .eStream) ∨ (s.state = .dIv ∧ t.state = .dStream) →
    t.mmsg = [] ∧ t.blkrem = s.blkrem) ∧
  ((s.state = .eStream ∧ t.state = .eStream) ∨
    (s.state = .dStream ∧ (t.state = .dStream ∨ t.state = .dTag)) →
    t.mmsg.length + 16 * t.blkrem.toNat = s.mmsg.length + 16 * s.blkrem.toNat)

/-- The rule asks nothing of a step that starts or ends outside an operation. -/
theorem streamRule_of_outside {s t : State} (h : Outside s.state ∨ Outside t.state) :
    StreamRule s t := by
  have hout : ∀ {q}, Outside q →
      q ≠ .eName ∧ q ≠ .dIv ∧ q ≠ .eStream ∧ q ≠ .dStream ∧ q ≠ .dTag := by
    rintro q (rfl | rfl | rfl) <;> simp
  rcases h with h | h
  · obtain ⟨h1, h2, h3, h4, -⟩ := hout h
    simp [StreamRule, h1, h2, h3, h4]
  · obtain ⟨h1, h2, h3, h4, h5⟩ := hout h
    refine ⟨fun hs ht => ?_, by simp [h3, h4], by simp [h3, h4, h5]⟩
    rw [ht] at h1 h2
    exact absurd hs (by simp [h1, h2])

theorem streamRule_of_same {s t : State} (hq : t.state = s.state) (hb : t.blkrem = s.blkrem)
    (hm : t.mmsg = s.mmsg) : StreamRule s t := by
  refine ⟨fun _ _ => hb, fun h => ?_, fun _ => by rw [hb, hm]⟩
  rcases h with ⟨hs, ht⟩ | ⟨hs, ht⟩ <;> simp [hq, hs] at ht

/-- A block of 16 bytes fed to the MAC, and BLKREM counted down (R70). -/
theorem streamed_block {m : Bytes} (c : Block) {x : BitVec 64} (h : 1 ≤ x.toNat) :
    (m ++ c.toList).length + 16 * (x - 1#64).toNat = m.length + 16 * x.toNat := by
  rw [blkrem_pred_toNat h, List.length_append, Vector.length_toList, Config.blockLen_eq]
  omega

theorem perform_streamRule {P : Config.Params} {i : Instr} {p : Snap} {s v : State}
    (hs : Counted s) (hl : legal i s.state = true) (h : perform P i p s = .ok v) :
    StreamRule s v := by
  obtain ⟨-, hes, hds, -, -, -, -⟩ := hs
  cases i with
  | abort => cases h; exact streamRule_of_outside (.inr (.inl rfl))
  | keyClear => exact streamRule_of_outside (.inl (legal_keyClear.1 hl))
  | keyAppend n => exact streamRule_of_outside (.inl (legal_keyAppend.1 hl))
  | encStart => exact streamRule_of_outside (.inl (legal_encStart.1 hl))
  | decStart => exact streamRule_of_outside (.inl (legal_decStart.1 hl))
  | nameAppend n => cases h; exact streamRule_of_same rfl rfl rfl
  | ivGen =>
    have hq : s.state = .eName := of_decide_eq_true hl
    cases h
    exact ⟨fun _ _ => rfl, fun _ => ⟨rfl, rfl⟩, fun h => by simp [hq] at h⟩
  | encBlock =>
    have hq : s.state = .eStream := of_decide_eq_true hl
    obtain ⟨c, -, ⟨_, rfl⟩ | ⟨_, rfl⟩⟩ := performEncBlock_ok h
    · exact ⟨fun h => by simp [hq] at h, fun h => by simp [hq] at h,
        fun _ => streamed_block c (hes hq).1⟩
    · exact streamRule_of_outside (.inr (.inr (.inl rfl)))
  | ivLoad =>
    have hq : s.state = .dIv := of_decide_eq_true hl
    cases h
    exact ⟨fun _ _ => rfl, fun _ => ⟨rfl, rfl⟩, fun h => by simp [hq] at h⟩
  | decBlock =>
    have hq : s.state = .dStream := of_decide_eq_true hl
    cases h
    exact ⟨fun h => by simp [hq] at h, fun h => by simp [hq] at h,
      fun _ => streamed_block p.din (hds hq).1⟩
  | tagCheck =>
    obtain ⟨-, rfl⟩ := performTagCheck_ok h
    exact streamRule_of_outside (.inr (.inr (.inl rfl)))

theorem Effect.streamRule {s t : State} (hs : Counted s) (h : Effect s t) : StreamRule s t := by
  cases h with
  | held same completing flags =>
    rw [ResultsHeld] at same
    exact streamRule_of_same (by rw [same]) (by rw [same]) (by rw [same])
  | reset rest => exact streamRule_of_outside (.inr (.inl rfl))
  | raised rest c r code => exact streamRule_of_outside (.inr (.inr (.inr rfl)))
  | accepted rest r cls wf allowed => exact streamRule_of_same rfl rfl rfl
  | performed rest c r wf allowed secret keylen ok =>
    have hv := perform_streamRule (s := taken s rest c r) hs allowed ok
    exact hv

/-- Settles O55: each of the five effects of a step obeys R70's rule. -/
theorem streamedLength : Obligations.StreamedLength := by
  intro s t hs h
  obtain ⟨hctl, -, -, -, -, hcnt, -⟩ := hs
  exact (effect_of_step hctl h).streamRule hcnt

end Sys2Proof.Machine

/-! # Nothing stops the machine -/

namespace Sys2Proof.Machine

open Sys2Proof

/-- A state with an action first in its list is that action pushed onto the rest. -/
theorem pushInput_of_inputs {s : State} {a : Input} {rest : List Input} (h : s.inputs = a :: rest) :
    pushInput { s with inputs := rest } a = s := by
  simp only [pushInput, ← h]

/-- Every step answers a next state: with no action left the machine idles (R318), and each action
leaves it in a next state, a refused access too (R92). -/
theorem step_next (s : State) : ∃ t, step s = .next t := by
  cases h : s.inputs with
  | nil => exact ⟨s, step_idle h⟩
  | cons a rest =>
    rw [← pushInput_of_inputs h]
    exact step_pushInput_next { s with inputs := rest } a

/-- Settles O9: no action of the outside world stops a step, and both classes of command answer a
next state. -/
theorem nothingStopsTheMachine : Obligations.NothingStopsTheMachine :=
  ⟨step_next, exec_next⟩

end Sys2Proof.Machine

/-! # Command words

A word is legal exactly when its three fields are those of a well-formed command (30_encoding.md
R110 to R115): one equivalence, from which the round trips and the table of legal words follow. -/

namespace Sys2Proof

open Laws

/-! ## The fields of a word, and the commands by their fields -/

theorem encodedFields (i : Instr) : EncodedFields.Statement i := by
  cases i with
  | abort => exact EncodedFields.abort
  | keyClear => exact EncodedFields.keyClear
  | keyAppend n => exact EncodedFields.keyAppend n
  | encStart => exact EncodedFields.encStart
  | nameAppend n => exact EncodedFields.nameAppend n
  | ivGen => exact EncodedFields.ivGen
  | encBlock => exact EncodedFields.encBlock
  | decStart => exact EncodedFields.decStart
  | ivLoad => exact EncodedFields.ivLoad
  | decBlock => exact EncodedFields.decBlock
  | tagCheck => exact EncodedFields.tagCheck

/-- The one check of a command is the range of its count, 0 where it takes none (R111). -/
theorem Instr.wf_iff (i : Instr) : i.wf = true ↔ i.count.toNat ≤ Config.maxCount := by
  cases i <;> simp [Instr.wf, Instr.count]

theorem Instr.count_of_not_takesCount {i : Instr} (h : i.takesCount = false) : i.count = 0#5 := by
  cases i with
  | keyAppend n | nameAppend n => cases h
  | _ => rfl

theorem opcField_toNat (w : Word) : (opcField w).toNat = w.toNat % 256 := by
  simp [opcField]

theorem cntField_toNat (w : Word) : (cntField w).toNat = w.toNat / 256 % 32 := by
  simp [cntField, Nat.shiftRight_eq_div_pow]

theorem rsvField_eq_zero_iff (w : Word) : rsvField w = 0#19 ↔ w.toNat / 2 ^ 13 = 0 := by
  have hw := w.isLt
  rw [← BitVec.toNat_inj]
  simp only [rsvField, BitVec.extractLsb'_toNat, Nat.shiftRight_eq_div_pow, BitVec.toNat_ofNat]
  omega

/-- The opcodes that take a count, each for every count (R111, R113). -/
theorem opcode_mem_counted_iff (opc : BitVec 8) (cnt : BitVec 5) :
    opc.toNat ∈ [0x03, 0x11] ↔
      ∃ i : Instr, i.takesCount = true ∧ opc = i.opcode ∧ cnt = i.count := by
  constructor
  · intro h
    simp only [List.mem_cons, List.not_mem_nil, or_false] at h
    rcases h with h | h
    · exact ⟨.keyAppend cnt, rfl, BitVec.eq_of_toNat_eq h, rfl⟩
    · exact ⟨.nameAppend cnt, rfl, BitVec.eq_of_toNat_eq h, rfl⟩
  · rintro ⟨i, ht, rfl, -⟩
    cases i with
    | keyAppend n | nameAppend n => simp [Instr.opcode]
    | _ => cases ht

/-- The opcodes that take none (R111, R113). -/
theorem opcode_mem_plain_iff (opc : BitVec 8) :
    opc.toNat ∈ [0x01, 0x02, 0x10, 0x12, 0x13, 0x20, 0x21, 0x22, 0x23] ↔
      ∃ i : Instr, i.takesCount = false ∧ opc = i.opcode := by
  constructor
  · intro h
    simp only [List.mem_cons, List.not_mem_nil, or_false] at h
    rcases h with h | h | h | h | h | h | h | h | h
    · exact ⟨.abort, rfl, BitVec.eq_of_toNat_eq h⟩
    · exact ⟨.keyClear, rfl, BitVec.eq_of_toNat_eq h⟩
    · exact ⟨.encStart, rfl, BitVec.eq_of_toNat_eq h⟩
    · exact ⟨.ivGen, rfl, BitVec.eq_of_toNat_eq h⟩
    · exact ⟨.encBlock, rfl, BitVec.eq_of_toNat_eq h⟩
    · exact ⟨.decStart, rfl, BitVec.eq_of_toNat_eq h⟩
    · exact ⟨.ivLoad, rfl, BitVec.eq_of_toNat_eq h⟩
    · exact ⟨.decBlock, rfl, BitVec.eq_of_toNat_eq h⟩
    · exact ⟨.tagCheck, rfl, BitVec.eq_of_toNat_eq h⟩
  · rintro ⟨i, ht, rfl⟩
    cases i with
    | keyAppend n | nameAppend n => cases ht
    | _ => simp [Instr.opcode]

/-! ## The decoder -/

/-- A word decodes to i exactly when its fields are those of i and i is well-formed (R115). -/
theorem decode_eq_ok_iff {w : Word} {i : Instr} :
    decode w = .ok i ↔
      rsvField w = 0#19 ∧ opcField w = i.opcode ∧ cntField w = i.count ∧ i.wf = true := by
  refine ⟨decode_ok, ?_⟩
  rintro ⟨hr, ho, hc, hw⟩
  obtain ⟨-, -, -, hlook⟩ := encodedFields i
  rw [Instr.wf_iff] at hw
  rw [decode, if_neg (not_not.2 hr), ho, hc, hlook]
  cases ht : i.takesCount with
  | true => simp [ht, hw]
  | false => simp [ht, Instr.count_of_not_takesCount ht]

theorem decode_encode {i : Instr} (h : i.WellFormed) : decode (encode i) = .ok i := by
  obtain ⟨ho, hc, hr, -⟩ := encodedFields i
  exact decode_eq_ok_iff.2 ⟨hr, ho, hc, h⟩

/-- The fields of a word leave none of its bits out (R110). -/
theorem encode_of_decode {w : Word} {i : Instr} (h : decode w = .ok i) : encode i = w := by
  obtain ⟨hr, ho, hc, -⟩ := decode_ok h
  rw [encode, ← hr, ← hc, ← ho, word_of_fields]

/-- The byte decoder takes the lanes of R90. -/
@[simp] theorem decodeBytes_bytesOfWord (w : Word) : decodeBytes (bytesOfWord w) = decode w := by
  simp [bytesOfWord, decodeBytes]

/-- Settles O1: `decode_encode`, and the byte decoder reads the same word. -/
theorem decodeInvertsEncode : Obligations.DecodeInvertsEncode :=
  fun _ h => ⟨decode_encode h, (decodeBytes_bytesOfWord _).trans (decode_encode h)⟩

/-- Settles O2: what decodes has the fields of its command, and the fields make up the word. -/
theorem legalWordIsItsEncoding : Obligations.LegalWordIsItsEncoding := by
  intro w i h
  obtain ⟨-, -, -, hw⟩ := decode_ok h
  exact ⟨hw, encode_of_decode h⟩

/-- Settles O3: `decode_eq_ok_iff`, the commands that take a count apart from those that take none. -/
theorem illegalWordsExactly : Obligations.IllegalWordsExactly := by
  intro w
  rw [← rsvField_eq_zero_iff, ← opcField_toNat, ← cntField_toNat,
    opcode_mem_counted_iff _ (cntField w), opcode_mem_plain_iff]
  constructor
  · rintro ⟨i, h⟩
    obtain ⟨hr, ho, hc, hw⟩ := decode_ok h
    refine ⟨hr, ?_⟩
    cases ht : i.takesCount with
    | true => exact .inl ⟨⟨i, ht, ho, hc⟩, hc ▸ i.wf_iff.1 hw⟩
    | false => exact .inr ⟨⟨i, ht, ho⟩, by rw [hc, Instr.count_of_not_takesCount ht]; rfl⟩
  · rintro ⟨hr, ⟨⟨i, -, ho, hc⟩, hle⟩ | ⟨⟨i, ht, ho⟩, hz⟩⟩
    · exact ⟨i, decode_eq_ok_iff.2 ⟨hr, ho, hc, i.wf_iff.2 (hc ▸ hle)⟩⟩
    · have hcount := Instr.count_of_not_takesCount ht
      have hc : cntField w = i.count := by rw [hcount]; exact BitVec.eq_of_toNat_eq hz
      exact ⟨i, decode_eq_ok_iff.2 ⟨hr, ho, hc, i.wf_iff.2 (by simp [hcount])⟩⟩

/-- Settles O4: the decoder evaluated at each of the sixteen words. -/
theorem exampleWordsDecode : Obligations.ExampleWordsDecode := by
  unfold Obligations.ExampleWordsDecode
  decide

end Sys2Proof

/-! # Container lengths, and what a CMD write does with an illegal word or DEC_START -/

namespace Sys2Proof.Machine

open Sys2Proof

/-- An illegal word presented with BUSY = 0 raises ILLEGAL_CMD (R114, R150). -/
theorem present_illegal {w : Word} {s : State} (hb : s.busy = false) (hd : ∀ i, decode w ≠ .ok i) :
    present w s = .next (raiseError .illegalCmd s) := by
  rw [present, if_neg (by simp [hb])]
  cases h : decode w with
  | ok i => exact absurd h (hd i)
  | error e => rfl

/-- Settles O6: the word of a CMD write is presented, and `present_illegal` says what follows. -/
theorem illegalWordRaisesIllegalCmd : Obligations.IllegalWordRaisesIllegalCmd := by
  intro s w rest hin hb hd
  rw [step_writeCmd hin, BitVec.setWidth_setWidth_of_le _ (by decide), BitVec.setWidth_eq]
  exact present_illegal hb hd

/-- The format check of R132, in numbers. -/
theorem wellFormedLen_iff (CL : Nat) :
    wellFormedLen CL = true ↔ 48 ≤ CL ∧ (CL - 48) % 16 = 0 := by
  simp [wellFormedLen]

theorem containerBlocks_eq (CL : Nat) : containerBlocks CL = (CL - 48) / 16 := rfl

theorem containerLen_eq (N : Nat) : containerLen N = 48 + 16 * N := rfl

/-- Settles O46: CL - 48 is a multiple of 16, and N is the quotient. -/
theorem wellFormedLengths : Obligations.WellFormedLengths := by
  constructor
  · intro CL
    rw [wellFormedLen_iff]
    constructor
    · rintro ⟨hle, hmod⟩
      exact ⟨(CL - 48) / 16, by omega⟩
    · rintro ⟨N, rfl⟩
      omega
  · intro N
    rw [containerBlocks_eq, containerLen_eq]
    omega

/-- DEC_START in a state where it is legal performs within its acceptance step (R150, R155). -/
theorem exec_decStart {s : State} (hb : s.busy = false) (hq : Outside s.state) :
    exec .decStart s = .next (commit s (performDecStart (snapshot s) s)) :=
  (exec_immediate s rfl).trans (congrArg _ (acceptThen_of_legal hb rfl (legal_decStart.2 hq)))

theorem performDecStart_wellFormed {p : Snap} (s : State) (h : wellFormedLen p.len.toNat = true) :
    performDecStart p s = .ok { opClear s with
      err := .none, dir := true, state := .dIv
      blkrem := BitVec.ofNat 64 (containerBlocks p.len.toNat) } := if_pos h

theorem performDecStart_format {p : Snap} (s : State) (h : ¬ wellFormedLen p.len.toNat = true) :
    performDecStart p s = .error .format := if_neg h

/-- Settles O39: `performDecStart` on both sides of the format check, at the LEN of the snapshot. -/
theorem decStartCompletes : Obligations.DecStartCompletes := by
  intro s hb hq
  rw [exec_decStart hb hq]
  split
  · next h =>
    rw [performDecStart_wellFormed (p := snapshot s) s ((wellFormedLen_iff _).2 h)]
    rfl
  · next h =>
    rw [performDecStart_format (p := snapshot s) s (mt (wellFormedLen_iff _).1 h)]
    rfl

end Sys2Proof.Machine

/-! # Acceptance and completion

What a word written to CMD does when it finds BUSY and when it is a command, and the order of the
checks at acceptance and at completion (40_command_model.md R150, R151, R155, R158). -/

namespace Sys2Proof.Machine

open Sys2Proof Sys2Proof.Safety

/-! ## Acceptance -/

/-- A word that finds BUSY is not decoded (R150). -/
theorem present_of_busy {w : Word} {s : State} (hb : s.busy = true) :
    present w s = .next (whileBusy (w == 0x00000001#32) s) := if_pos hb

/-- The host's write of the command word w to CMD presents w (R34, R150). -/
theorem step_presents {s : State} {w : Word} {rest : List Input}
    (hin : s.inputs = .write 0x04#8 .w32 (w.setWidth 64) :: rest) :
    step s = present w (taken s rest none .ack) := by
  rw [step_writeCmd hin, BitVec.setWidth_setWidth_of_le _ (by decide), BitVec.setWidth_eq]
  rfl

/-- Outside a completion step a command of either class is accepted or rejected (R150). -/
theorem exec_presented (i : Instr) {s : State} (hc : s.completing = none) :
    ∃ go, exec i s = .next (acceptThen i s go) := by
  cases hk : i.class with
  | immediate => exact ⟨_, exec_immediate s hk⟩
  | busy => exact ⟨_, exec_busyClass_presented hk hc⟩

/-- An immediate-class command, legal in the state of an AEO that is not BUSY, performs within its
acceptance step (R150). -/
theorem exec_immediate_of_legal {i : Instr} {s : State} (hk : i.class = .immediate)
    (hw : i.WellFormed) (hb : s.busy = false) (hl : legal i s.state = true) :
    exec i s = .next (commit s (perform Config.params i (snapshot s) s)) :=
  (exec_immediate s hk).trans (congrArg _ (acceptThen_of_legal hb hw hl))

/-- A busy-class command, legal in the state of an AEO that is not BUSY, is taken into PEND
(R150). -/
theorem exec_busyClass_of_legal {i : Instr} {s : State} (hk : i.class = .busy) (hw : i.WellFormed)
    (hb : s.busy = false) (hc : s.completing = none) (hl : legal i s.state = true) :
    exec i s = .next (hold i (snapshot s) s) :=
  (exec_busyClass_presented hk hc).trans (congrArg _ (acceptThen_of_legal hb hw hl))

/-- Settles O7: ABORT's word is the one that `whileBusy` tells apart. -/
theorem commandWriteWhileBusy : Obligations.CommandWriteWhileBusy := by
  intro s w rest hin hb
  rw [step_presents hin, present_of_busy (s := taken s rest none .ack) hb]
  by_cases hw : w = 0x00000001#32 <;> simp [whileBusy, taken, hw]

/-- Settles O26: the count is checked before the state, and both before the command's own checks. -/
theorem rejectedAtAcceptance : Obligations.RejectedAtAcceptance := by
  intro i s hb hc
  obtain ⟨go, hgo⟩ := exec_presented i hc
  rw [hgo]
  exact ⟨fun hw hl => congrArg _ (acceptThen_of_notLegal hb hw hl),
    fun hw => congrArg _ (acceptThen_of_illFormed hb (Bool.eq_false_iff.2 hw))⟩

/-- Settles O27: acceptance of a busy-class command is `hold` on the snapshot. -/
theorem busyCommandAccepted : Obligations.BusyCommandAccepted :=
  fun _ _ hk hw hb hc hl => exec_busyClass_of_legal hk hw hb hc hl

/-- Settles O31: ABORT is legal in every state, and its `perform` is `abortActions`. -/
theorem abortCompletes : Obligations.AbortCompletes :=
  fun _ hb => exec_immediate_of_legal rfl rfl hb rfl

/-- Settles O25, one state of R155's table after the other. -/
theorem legalityTable : Obligations.LegalityTable := by
  intro q
  cases q <;> simp [legal]

/-- Settles O24: error entry clears the operation and then writes its own elements. -/
theorem errorEntry : Obligations.ErrorEntry := fun _ _ => rfl

/-! ## Completion -/

theorem step_complete_of_busy {s : State} {pf : Bool} {rest : List Input} {p : Pending}
    (hin : s.inputs = .complete pf :: rest) (hb : s.busy = true) (hp : s.pend = some p) :
    step s = exec p.cmd { s with inputs := rest, completing := some pf } :=
  (step_input hin).trans
    (sequencerStep_busy (s := { s with inputs := rest, completing := none }) hb hp)

/-- Settles O8: the completion step with and without BUSY, and the idle step. -/
theorem completionStepRunsPending : Obligations.CompletionStepRunsPending :=
  ⟨fun _ _ _ _ => step_complete_of_busy,
    fun _ _ _ hin hb => (step_input hin).trans (sequencerStep_notBusy hb),
    fun _ => step_idle⟩

section Complete

variable {anyCall pf : Bool} {f : State → Performed} {s : State}

/-- A pending ABORT comes first at completion (R151, R160). -/
theorem complete_of_abrt (ha : s.abrt = true) :
    complete anyCall pf f s = endStep (finishOk (abortActions s)) := by
  simp [complete, ha]

/-- An overrun comes next (R151, R158). -/
theorem complete_of_ovr (ha : s.abrt = false) (ho : s.ovr = true) :
    complete anyCall pf f s = endStep (raiseError .overrun s) := by
  simp [complete, ha, ho]

/-- A failed call comes third (R151, R186). -/
theorem complete_of_failed (ha : s.abrt = false) (ho : s.ovr = false)
    (hc : (anyCall && pf) = true) :
    complete anyCall pf f s = endStep (raiseError .primFail s) := by
  simp [complete, ha, ho, hc]

end Complete

/-- Settles O28: `complete` in R151's order, and only NAME_APPEND 0 makes no call. -/
theorem completionPriority : Obligations.CompletionPriority := by
  intro i s p pf hk hc hp
  rw [exec_completes hk hc hp]
  refine ⟨fun ha => ?_, fun ha ho => ?_, fun ha ho hpf hi => ?_⟩
  · rw [complete_of_abrt ha]
    rfl
  · rw [complete_of_ovr ha ho]
    rfl
  · have hcalls : (calls Config.params i p s).isEmpty = false :=
      Bool.eq_false_iff.2 (mt (calls_isEmpty hk).1 hi)
    rw [complete_of_failed ha ho (by simp [hcalls, hpf])]
    rfl

end Sys2Proof.Machine

/-! # What a command does not depend on

No `perform` reads or writes the host's registers, the interrupt registers or the bookkeeping of the
two phases: the operands come with the snapshot (40_command_model.md R152, R154). So a command
performed in its acceptance step, or later in its completion step, has the results that `runCommand`
gives, and a write to an operand register commutes with a completion. -/

namespace Sys2Proof.Machine

open Sys2Proof Sys2Proof.Safety

/-! ## The elements outside `perform` -/

/-- s with the elements that no `perform` reads or writes taken from c (R152, R154). -/
def State.inContext (s c : State) : State :=
  { s with
    busy := c.busy, pend := c.pend, abrt := c.abrt,
    cmplIe := c.cmplIe, failIe := c.failIe, cmpl := c.cmpl, fail := c.fail,
    len := c.len, din := c.din, tagin := c.tagin,
    completing := c.completing, inputs := c.inputs, reply := c.reply }

/-- `perform` is the same in every context (R152). -/
theorem perform_inContext (P : Config.Params) (i : Instr) (p : Snap) (s c : State) :
    perform P i p (s.inContext c) = (perform P i p s).map (·.inContext c) := by
  cases i with
  | keyAppend n | decStart | encBlock | tagCheck =>
    simp only [perform, performKeyAppend, performDecStart, performEncBlock, performTagCheck,
      apply_ite (Except.map _)]
    rfl
  | abort | keyClear | encStart | nameAppend n | ivGen | ivLoad | decBlock => rfl

/-- The same for two states that differ in their contexts alone. -/
theorem perform_of_inContext {P : Config.Params} {i : Instr} {p : Snap} {s t : State}
    (h : s.inContext t = t) : perform P i p t = (perform P i p s).map (·.inContext t) :=
  (congrArg (perform P i p) h).symm.trans (perform_inContext P i p s t)

/-- `perform` leaves its context as it was (R154). -/
theorem inContext_of_perform_ok {P : Config.Params} {i : Instr} {p : Snap} {s v : State}
    (h : perform P i p s = .ok v) : v.inContext s = v := by
  have hself := perform_of_inContext (P := P) (i := i) (p := p) (s := s) (t := s) rfl
  rw [h] at hself
  exact (Except.ok.inj hself).symm

theorem runCommand_of_legal {P : Config.Params} {i : Instr} {s : State}
    (hl : legal i s.state = true) : runCommand P i s = perform P i (snapshot s) s := if_pos hl

/-! ## A command run by its steps -/

/-- A legal word that finds BUSY = 0 is run (R150). -/
theorem present_of_decode {w : Word} {i : Instr} {s : State} (hb : s.busy = false)
    (hd : decode w = .ok i) : present w s = exec i s := by
  rw [present, if_neg (by simp [hb]), hd]

/-- The acceptance step of an immediate-class command ends as `runCommand` says (R150, R154). -/
theorem step_runCommand_immediate {i : Instr} {s : State} {rest : List Input}
    (hw : i.WellFormed) (hb : s.busy = false) (hl : legal i s.state = true)
    (hk : i.class = .immediate)
    (hin : s.inputs = .write 0x04#8 .w32 ((encode i).setWidth 64) :: rest) :
    step s = .next (commit (taken s rest none .ack)
      ((runCommand Config.params i s).map (·.inContext (taken s rest none .ack)))) := by
  rw [step_presents hin, present_of_decode (s := taken s rest none .ack) hb (decode_encode hw),
    exec_immediate_of_legal (s := taken s rest none .ack) hk hw hb hl, runCommand_of_legal hl,
    ← perform_inContext]
  rfl

/-- The state in which a busy-class command accepted in s comes to its completion step, its calls
answered and `rest` to come (R150, R151). -/
def atCompletion (i : Instr) (s : State) (rest : List Input) : State :=
  hold i (snapshot s) (taken s rest (some false) .ack)

/-- The acceptance step of a busy-class command and its completion step with no failed call, one
after the other (R150, R151). -/
theorem step_runCommand_busy {i : Instr} {s : State} {rest : List Input}
    (hw : i.WellFormed) (hb : s.busy = false) (hl : legal i s.state = true) (hk : i.class = .busy)
    (hin : s.inputs =
      .write 0x04#8 .w32 ((encode i).setWidth 64) :: .complete false :: rest) :
    ∃ a, step s = .next a ∧ a.busy = true ∧
      step a = .next (complete
        (!(calls Config.params i (snapshot s) (atCompletion i s rest)).isEmpty) false
        (perform Config.params i (snapshot s)) (atCompletion i s rest)) := by
  refine ⟨hold i (snapshot s) (taken s (.complete false :: rest) none .ack), ?_, rfl, ?_⟩
  · rw [step_presents hin,
      present_of_decode (s := taken s (.complete false :: rest) none .ack) hb (decode_encode hw)]
    exact exec_busyClass_of_legal hk hw hb rfl hl
  · rw [step_complete_of_busy (pf := false) (rest := rest) rfl rfl rfl]
    exact exec_completes hk rfl rfl

/-- Settles O30: on the machine `perform` runs in the context of the acceptance step or of the
completion step, and it is the same in both. -/
theorem runCommandIsTheMachine : Obligations.RunCommandIsTheMachine := by
  intro i s rest hw hb hl
  refine ⟨fun hk hin => ?_, fun hk ha ho hin => ?_⟩
  · rw [step_runCommand_immediate hw hb hl hk hin, runCommand_of_legal hl]
    cases hrun : perform Config.params i (snapshot s) s with
    | error e => rfl
    | ok u =>
      conv_rhs => rw [← inContext_of_perform_ok hrun]
      rfl
  · obtain ⟨a, hstep, hbusy, hcompl⟩ := step_runCommand_busy hw hb hl hk hin
    refine ⟨a, hstep, hbusy, hcompl.trans ?_⟩
    have hctx : perform Config.params i (snapshot s) (atCompletion i s rest) =
        (perform Config.params i (snapshot s) s).map (·.inContext (atCompletion i s rest)) :=
      perform_of_inContext rfl
    rw [runCommand_of_legal hl]
    cases hrun : perform Config.params i (snapshot s) s with
    | error e =>
      rw [hrun] at hctx
      rw [complete_error (s := atCompletion i s rest) ha ho (Bool.and_false _) hctx]
      rfl
    | ok u =>
      rw [hrun] at hctx
      rw [complete_ok (s := atCompletion i s rest) ha ho (Bool.and_false _) hctx]
      conv_rhs => rw [← inContext_of_perform_ok hrun]
      rfl

/-! ## Operand writes to a busy AEO -/

/-- s with the operand registers, the actions to come and the reply taken from h. -/
def State.facingHost (s h : State) : State :=
  { s with din := h.din, tagin := h.tagin, len := h.len, inputs := h.inputs, reply := h.reply }

/-- `perform` takes its operands from the snapshot, not from the registers (R152). -/
theorem perform_facingHost (P : Config.Params) (i : Instr) (p : Snap) (s h : State) :
    perform P i p (s.facingHost h) = (perform P i p s).map (·.facingHost h) := by
  rw [perform_of_inContext (s := s) (t := s.facingHost h) rfl]
  cases hv : perform P i p s with
  | error e => rfl
  | ok v =>
    conv_rhs => rw [← inContext_of_perform_ok hv]
    rfl

theorem complete_facingHost {anyCall pf : Bool} {f : State → Performed} {s h : State}
    (hf : f (s.facingHost h) = (f s).map (·.facingHost h)) :
    complete anyCall pf f (s.facingHost h) = (complete anyCall pf f s).facingHost h := by
  rcases complete_cases anyCall pf f s with ⟨ha, hs⟩ | ⟨ha, ho, hs⟩ | ⟨ha, ho, h1, h2, hs⟩ |
    ⟨ha, ho, hc, v, hv, hs⟩ | ⟨ha, ho, hc, e, he, hs⟩ <;> rw [hs]
  · rw [complete_of_abrt (s := s.facingHost h) ha]
    rfl
  · rw [complete_of_ovr (s := s.facingHost h) ha ho]
    rfl
  · rw [complete_of_failed (s := s.facingHost h) ha ho (by rw [h1, h2]; rfl)]
    rfl
  · rw [hv] at hf
    rw [complete_ok (s := s.facingHost h) ha ho hc hf]
    rfl
  · rw [he] at hf
    rw [complete_error (s := s.facingHost h) ha ho hc hf]
    rfl

/-- Every completion ends the completion step, in the model's own field. -/
theorem complete_completing (anyCall pf : Bool) (f : State → Performed) (s : State) :
    (complete anyCall pf f s).completing = none := by
  rcases complete_cases anyCall pf f s with ⟨_, h⟩ | ⟨_, _, h⟩ | ⟨_, _, _, _, h⟩ |
    ⟨_, _, _, _, _, h⟩ | ⟨_, _, _, _, _, h⟩ <;> rw [h] <;> rfl

/-- A completion step does not depend on what the host has written to the operand registers since
the command's acceptance (R152, R347). -/
theorem exec_completing_facingHost {i : Instr} {p : Snap} {pf : Bool} {s t : State} (h : State)
    (hexec : exec i s = .next t) (hk : i.class = .busy) (hc : s.completing = some pf)
    (hp : s.pend = some ⟨i, p⟩) :
    t.completing = none ∧ exec i (s.facingHost h) = .next (t.facingHost h) := by
  have hcalls : (calls Config.params i p (s.facingHost h)).isEmpty =
      (calls Config.params i p s).isEmpty :=
    Bool.eq_iff_iff.2 ((calls_isEmpty hk).trans (calls_isEmpty hk).symm)
  rw [exec_completes hk hc hp] at hexec
  cases hexec
  refine ⟨complete_completing _ _ _ _, ?_⟩
  rw [exec_completes (s := s.facingHost h) hk hc hp, hcalls,
    complete_facingHost (perform_facingHost _ i p s h)]

/-- The registers of a command's operands that the host writes (R152). -/
def Reg.IsOperand (r : Reg) : Prop :=
  r = .lenLo ∨ r = .lenHi ∨ (∃ j, r = .din j) ∨ ∃ j, r = .tagin j

/-- A write to an operand register reads and writes the operand registers alone (R48, R51, R54). -/
theorem writeReg_operand {r : Reg} (hr : r.IsOperand) (v : Word) {s t : State}
    (hsame : t.din = s.din ∧ t.tagin = s.tagin ∧ t.len = s.len) :
    writeReg t r v = { t with
      din := (writeReg s r v).din, tagin := (writeReg s r v).tagin
      len := (writeReg s r v).len } := by
  obtain ⟨hdin, htagin, hlen⟩ := hsame
  rcases hr with rfl | rfl | ⟨j, rfl⟩ | ⟨j, rfl⟩ <;> simp only [writeReg, hdin, htagin, hlen]

/-- What a write of v to the operand register r leaves in the operand registers, in the actions to
come and in the reply: the elements that `State.facingHost` takes. -/
def afterOperandWrite (r : Reg) (v : Word) (rest : List Input) (s : State) : State :=
  { writeReg s r v with inputs := rest, reply := .ack }

/-- The step of an operand write, on any state with the operand registers of s. -/
theorem step_operandWrite {r : Reg} (hr : r.IsOperand) {v : Word} {rest : List Input} {s t : State}
    (hsame : t.din = s.din ∧ t.tagin = s.tagin ∧ t.len = s.len)
    (hin : t.inputs = hostWr r v :: rest) :
    step t = .next ((endStep t).facingHost (afterOperandWrite r v rest s)) := by
  have hcmd : r ≠ .cmd := by
    rintro rfl
    simp [Reg.IsOperand] at hr
  rw [step_writeWord r hcmd hin,
    writeReg_operand hr v (s := s) (t := { t with inputs := rest, completing := none }) hsame]
  rfl

/-- Settles O60: the completion on the registers as they were and the completion on those after the
write differ in the operand registers alone, and there as the write says. -/
theorem lateOperandWritesDoNotReach : Obligations.LateOperandWritesDoNotReach := by
  intro s r v pf rest p hb hp hk hr
  have hwrite := @step_operandWrite r hr v
  obtain ⟨c, hc⟩ := exec_next p.cmd { s with inputs := hostWr r v :: rest, completing := some pf }
  obtain ⟨hdin, htagin, hlen, -, -, hin, -⟩ := exec_hostPart hc
  obtain ⟨hend, hlate⟩ :=
    exec_completing_facingHost (afterOperandWrite r v rest s) hc hk rfl hp
  have hc' : endStep c = c := by
    simp only [endStep, ← hend]
  refine ⟨_, c.facingHost (afterOperandWrite r v rest s), c, _, hwrite (s := s) ⟨rfl, rfl, rfl⟩ rfl,
    ?_, ?_, hwrite (s := s) ⟨hdin, htagin, hlen⟩ hin, ?_⟩
  · exact (step_complete_of_busy rfl (by exact hb) (by exact hp)).trans hlate
  · exact (step_complete_of_busy rfl (by exact hb) (by exact hp)).trans hc
  · rw [hc']

end Sys2Proof.Machine

/-! # The transitions of STATE

Each row of R156's table, and each event of R300, as a case of one relation between the states
before and after a step; a step that changes STATE is one of them (40_command_model.md R156). -/

namespace Sys2Proof.Machine

open Sys2Proof Sys2Proof.Safety

/-! ## The comparison of tags -/

/-- The fold of R296 is 0 exactly when it starts at 0 and all pairs of bytes are equal. -/
theorem foldl_or_xor_eq_zero (l m : Bytes) (hlen : l.length = m.length) (acc : Byte) :
    (l.zip m).foldl (fun acc p => acc ||| (p.1 ^^^ p.2)) acc = 0#8 ↔ acc = 0#8 ∧ l = m := by
  induction l generalizing m acc with
  | nil =>
    obtain rfl : m = [] := List.length_eq_zero_iff.1 hlen.symm
    simp
  | cons x l ih =>
    cases m with
    | nil => cases hlen
    | cons y m =>
      simp only [List.zip_cons_cons, List.foldl_cons, ih m (Nat.succ.inj hlen),
        BitVec.or_eq_zero_iff, BitVec.xor_eq_zero_iff, List.cons.injEq, and_assoc]

/-- The comparison is equality of all 32 bytes (R296). -/
theorem ctEq_iff (a b : Tag) : ctEq a b = true ↔ a = b := by
  rw [ctEq, beq_iff_eq, foldl_or_xor_eq_zero a.toList b.toList (by simp), Vector.toList_inj]
  exact and_iff_right rfl

/-! ## The errors of `perform` -/

/-- Only three commands raise an error of their own, each under its condition (R216, R271, R295). -/
theorem perform_raises {P : Config.Params} {i : Instr} {p : Snap} {s : State} {e : ErrCode}
    (h : perform P i p s = .error e) :
    (e = .keyOvf ∧ ∃ n, i = .keyAppend n ∧ P.secretMax < p.keylen.toNat + n.toNat) ∨
    (e = .format ∧ i = .decStart ∧ wellFormedLen p.len.toNat = false) ∨
    (e = .auth ∧ i = .tagCheck ∧ P.mac s.wk s.mmsg ≠ p.tagin) := by
  cases i with
  | keyAppend n =>
    simp only [perform, performKeyAppend] at h
    split at h
    · next hn =>
      cases h
      exact .inl ⟨rfl, n, rfl, hn⟩
    · cases h
  | decStart =>
    simp only [perform, performDecStart] at h
    split at h
    · cases h
    · next hlen =>
      cases h
      exact .inr (.inl ⟨rfl, rfl, Bool.eq_false_iff.2 hlen⟩)
  | tagCheck =>
    simp only [perform, performTagCheck] at h
    split at h
    · cases h
    · next hne =>
      cases h
      exact .inr (.inr ⟨rfl, rfl, mt (ctEq_iff _ _).2 hne⟩)
  | encBlock =>
    simp only [perform, performEncBlock] at h
    split at h <;> cases h
  | abort | keyClear | encStart | nameAppend n | ivGen | ivLoad | decBlock => cases h

/-! ## The table -/

/-- The rows along which a step from s to t may change STATE (R156, R300, R340). -/
inductive Transition (s t : State) : Prop where
  /-- The platform's reset (R340). -/
  | reset {rest : List Input} (next : s.inputs = .reset :: rest) (target : t.state = .idle)
      (err : t.err = .none) : Transition s t
  /-- ABORT's word with BUSY = 0 (R160). -/
  | abort (next : Presents s 0x00000001#32) (target : t.state = .idle) (err : t.err = .none) :
      Transition s t
  /-- The completion of any command with ABRT set (R151). -/
  | abortPending {i : Instr} {p : Snap} {pf : Bool} (next : Completes s i p pf)
      (abrt : s.abrt = true) (target : t.state = .idle) (err : t.err = .none) : Transition s t
  /-- Error entry, by the event of its code (R300, R305). -/
  | error (next : Raises s t.err) (target : t.state = .error) (fail : t.fail = true) :
      Transition s t
  /-- ENC_START (R241). -/
  | encStart {p : Snap} (source : Outside s.state) (next : Undisturbed s .encStart p)
      (target : t.state = .eName) (err : t.err = .none) : Transition s t
  /-- DEC_START on a well-formed length (R271). -/
  | decStart (source : Outside s.state) (next : Presents s 0x00000020#32)
      (len : wellFormedLen s.len.toNat = true) (target : t.state = .dIv) (err : t.err = .none) :
      Transition s t
  /-- IV_GEN (R251). -/
  | ivGen {p : Snap} (source : s.state = .eName) (next : Undisturbed s .ivGen p)
      (target : t.state = .eStream) : Transition s t
  /-- ENC_BLOCK on the last block (R263). -/
  | encBlock {p : Snap} (source : s.state = .eStream) (next : Undisturbed s .encBlock p)
      (last : s.blkrem = 1#64) (target : t.state = .done) : Transition s t
  /-- IV_LOAD with blocks to come (R276). -/
  | ivLoad {p : Snap} (source : s.state = .dIv) (next : Undisturbed s .ivLoad p)
      (blocks : s.blkrem ≠ 0#64) (target : t.state = .dStream) : Transition s t
  /-- IV_LOAD of a container without blocks (R276). -/
  | ivLoadEmpty {p : Snap} (source : s.state = .dIv) (next : Undisturbed s .ivLoad p)
      (blocks : s.blkrem = 0#64) (target : t.state = .dTag) : Transition s t
  /-- DEC_BLOCK on the last block (R285). -/
  | decBlock {p : Snap} (source : s.state = .dStream) (next : Undisturbed s .decBlock p)
      (last : s.blkrem = 1#64) (target : t.state = .dTag) : Transition s t
  /-- TAG_CHECK on the tag that matches (R295). -/
  | tagCheck {p : Snap} (source : s.state = .dTag) (next : Undisturbed s .tagCheck p)
      (tag : Config.params.mac s.wk s.mmsg = p.tagin) (target : t.state = .done)
      (authOk : t.authOk = true) : Transition s t

/-! ## Words written to CMD -/

/-- An immediate-class command that changes STATE: ABORT, DEC_START, or one that raises its
error. -/
theorem transition_of_immediate {s : State} {rest : List Input} {i : Instr}
    (hword : Presents s (encode i)) (hk : i.class = .immediate) (hl : legal i s.state = true)
    (hne : (commit (taken s rest none .ack)
      (perform Config.params i (snapshot s) (taken s rest none .ack))).state ≠ s.state) :
    Transition s (commit (taken s rest none .ack)
      (perform Config.params i (snapshot s) (taken s rest none .ack))) := by
  generalize hv : perform Config.params i (snapshot s) (taken s rest none .ack) = res at hne ⊢
  cases res with
  | error e =>
    rcases perform_raises hv with ⟨rfl, n, rfl, hn⟩ | ⟨rfl, rfl, hlen⟩ | ⟨rfl, rfl, -⟩
    · exact .error ⟨n, hword, hl, hn⟩ rfl rfl
    · exact .error ⟨hword, hl, hlen⟩ rfl rfl
    · cases hk
  | ok v =>
    cases i with
    | abort => cases hv; exact .abort hword rfl rfl
    | keyClear => cases hv; exact absurd rfl hne
    | keyAppend n => obtain ⟨-, rfl⟩ := performKeyAppend_ok hv; exact absurd rfl hne
    | decStart =>
      obtain ⟨hlen, rfl⟩ := performDecStart_ok hv
      exact .decStart (legal_decStart.1 hl) hword hlen rfl rfl
    | encStart | nameAppend n | ivGen | encBlock | ivLoad | decBlock | tagCheck => cases hk

theorem ResultsHeld.seqState {s t : State} (h : ResultsHeld s t) : t.state = s.state := by
  rw [h]

/-- A word written to CMD that changes STATE. -/
theorem transition_of_present {s t : State} {data : BitVec 64} {rest : List Input}
    (hin : s.inputs = .write 0x04#8 .w32 data :: rest)
    (h : present (data.setWidth 32) (taken s rest none .ack) = .next t)
    (hne : t.state ≠ s.state) : Transition s t := by
  cases hb : s.busy with
  | true =>
    rw [present_of_busy (s := taken s rest none .ack) hb] at h
    cases h
    exact absurd (ResultsHeld.whileBusy _ (taken s rest none .ack)).seqState hne
  | false =>
    have hword : Presents s (data.setWidth 32) := ⟨hb, rest, data, hin, rfl⟩
    by_cases hlegal : ∃ i, decode (data.setWidth 32) = .ok i
    · obtain ⟨i, hi⟩ := hlegal
      obtain ⟨hwf, henc⟩ := legalWordIsItsEncoding _ i hi
      rw [present_of_decode (s := taken s rest none .ack) hb hi] at h
      rcases exec_presented_cases (s := taken s rest none .ack) rfl hb h with
        ⟨hw, -⟩ | ⟨-, hl, rfl⟩ | ⟨-, -, -, rfl⟩ | ⟨-, hl, hk, rfl⟩
      · exact absurd (hwf.symm.trans hw) (by simp)
      · exact .error ⟨_, i, hword, hi, hl⟩ rfl rfl
      · exact absurd rfl hne
      · exact transition_of_immediate (henc ▸ hword) hk hl hne
    · rw [not_exists] at hlegal
      rw [present_illegal (s := taken s rest none .ack) hb hlegal] at h
      cases h
      exact .error ⟨_, hword, hlegal⟩ rfl rfl

/-! ## Completions -/

/-- The results of a busy-class command that change STATE. -/
theorem transition_of_results {s v : State} {rest : List Input} {i : Instr} {p : Snap}
    (hk : i.class = .busy) (hl : legal i s.state = true) (hu : Undisturbed s i p)
    (hv : perform Config.params i p (taken s rest (some false) s.reply) = .ok v)
    (hne : v.state ≠ s.state) : Transition s (endStep (finishOk v)) := by
  cases i with
  | encStart => cases hv; exact .encStart (legal_encStart.1 hl) hu rfl rfl
  | nameAppend n => cases hv; exact absurd rfl hne
  | ivGen => cases hv; exact .ivGen (of_decide_eq_true hl) hu rfl
  | encBlock =>
    obtain ⟨c, -, ⟨-, rfl⟩ | ⟨hlast, rfl⟩⟩ := performEncBlock_ok hv
    · exact absurd rfl hne
    · exact .encBlock (of_decide_eq_true hl) hu (sub_eq_zero.1 hlast) rfl
  | ivLoad =>
    cases hv
    by_cases hblocks : s.blkrem = 0#64
    · exact .ivLoadEmpty (of_decide_eq_true hl) hu hblocks (if_pos hblocks)
    · exact .ivLoad (of_decide_eq_true hl) hu hblocks (if_neg hblocks)
  | decBlock =>
    cases hv
    by_cases hlast : s.blkrem - 1#64 = 0#64
    · exact .decBlock (of_decide_eq_true hl) hu (sub_eq_zero.1 hlast) (if_pos hlast)
    · exact absurd (if_neg hlast) hne
  | tagCheck =>
    obtain ⟨htag, rfl⟩ := performTagCheck_ok hv
    exact .tagCheck (of_decide_eq_true hl) hu ((ctEq_iff _ _).1 htag) rfl rfl
  | abort | keyClear | keyAppend n | decStart => cases hk

/-- The error of a busy-class command: TAG_CHECK's, on a tag that does not match (R295). -/
theorem transition_of_raised {s : State} {rest : List Input} {i : Instr} {p : Snap} {e : ErrCode}
    (hk : i.class = .busy) (hu : Undisturbed s i p)
    (he : perform Config.params i p (taken s rest (some false) s.reply) = .error e) :
    Transition s (endStep (raiseError e (taken s rest (some false) s.reply))) := by
  rcases perform_raises he with ⟨-, n, rfl, -⟩ | ⟨-, rfl, -⟩ | ⟨rfl, rfl, htag⟩
  · cases hk
  · cases hk
  · exact .error ⟨p, hu, htag⟩ rfl rfl

/-- A busy-class command whose calls have not failed drew no failure, or made no call (R186,
R189). -/
theorem not_failed_cases {P : Config.Params} {i : Instr} {p : Snap} {s : State} {pf : Bool}
    (hk : i.class = .busy) (h : (!(calls P i p s).isEmpty && pf) = false) :
    i = .nameAppend 0#5 ∨ pf = false := by
  rw [Bool.and_eq_false_iff, Bool.not_eq_false', calls_isEmpty hk] at h
  exact h

/-- A completion step that changes STATE. -/
theorem transition_of_completion {s t : State} {rest : List Input} {pf : Bool} {i : Instr}
    {p : Snap} (hk : i.class = .busy) (hl : legal i s.state = true) (hb : s.busy = true)
    (hp : s.pend = some ⟨i, p⟩) (hin : s.inputs = .complete pf :: rest)
    (h : exec i (taken s rest (some pf) s.reply) = .next t) (hne : t.state ≠ s.state) :
    Transition s t := by
  have hends : Completes s i p pf := ⟨hb, hp, rest, hin⟩
  rw [exec_completes (s := taken s rest (some pf) s.reply) hk rfl hp] at h
  cases h
  rcases complete_cases (!(calls Config.params i p (taken s rest (some pf) s.reply)).isEmpty) pf
      (perform Config.params i p) (taken s rest (some pf) s.reply) with
    ⟨ha, ht⟩ | ⟨ha, ho, ht⟩ | ⟨ha, ho, hcalls, rfl, ht⟩ | ⟨ha, ho, hpf, v, hv, ht⟩ |
      ⟨ha, ho, hpf, e, he, ht⟩ <;> rw [ht] at hne ⊢
  · exact .abortPending hends ha rfl rfl
  · exact .error ⟨⟨i, p, pf, hends⟩, ha, ho⟩ rfl rfl
  · have hi : i ≠ .nameAppend 0#5 := fun hi => by
      rw [(calls_isEmpty hk).2 hi] at hcalls
      cases hcalls
    exact .error ⟨⟨i, p, hends, hi⟩, ha, ho⟩ rfl rfl
  · rcases not_failed_cases hk hpf with rfl | rfl
    · cases hv
      exact absurd rfl hne
    · exact transition_of_results hk hl ⟨hends, ha, ho⟩ hv hne
  · rcases not_failed_cases hk hpf with rfl | rfl
    · cases he
    · exact transition_of_raised hk ⟨hends, ha, ho⟩ he

/-! ## Every step -/

/-- A step that changes STATE takes a row of the table. -/
theorem transition_of_step {s t : State} (hs : Control s) (h : step s = .next t)
    (hne : t.state ≠ s.state) : Transition s t := by
  obtain ⟨-, -, -, hpend⟩ := hs
  rcases step_kinds h with ⟨hsame, -⟩ | ⟨rest, hin, rfl⟩ | ⟨rest, data, hin, h⟩ |
    ⟨rest, pf, ⟨i, p⟩, hin, hb, hp, h⟩
  · exact absurd hsame.seqState hne
  · exact .reset hin rfl rfl
  · exact transition_of_present hin h hne
  · obtain ⟨hk, -, hl, -⟩ := hpend _ hp
    exact transition_of_completion hk hl hb hp hin h hne

/-- Settles O59: `transition_of_step`, row by row, and of the rows only five leave ERROR. -/
theorem stateTransitions : Obligations.StateTransitions := by
  constructor
  · intro s t hs h hne
    cases transition_of_step hs h hne with
    | reset next target err => exact .inl ⟨⟨_, next⟩, target, err⟩
    | abort next target err => exact .inr (.inl ⟨next, target, err⟩)
    | abortPending next abrt target err =>
      exact .inr (.inr (.inl ⟨⟨_, _, _, next⟩, abrt, target, err⟩))
    | error next target fail => exact .inr (.inr (.inr (.inl ⟨next, target, fail⟩)))
    | encStart source next target err =>
      exact .inr (.inr (.inr (.inr (.inl ⟨source, ⟨_, next⟩, target, err⟩))))
    | decStart source next len target err =>
      exact .inr (.inr (.inr (.inr (.inr (.inl ⟨source, next, len, target, err⟩)))))
    | ivGen source next target =>
      exact .inr (.inr (.inr (.inr (.inr (.inr (.inl ⟨source, ⟨_, next⟩, target⟩))))))
    | encBlock source next last target =>
      exact .inr (.inr (.inr (.inr (.inr (.inr (.inr
        (.inl ⟨source, ⟨_, next⟩, last, target⟩)))))))
    | ivLoad source next blocks target =>
      exact .inr (.inr (.inr (.inr (.inr (.inr (.inr (.inr
        (.inl ⟨source, ⟨_, next⟩, blocks, target⟩))))))))
    | ivLoadEmpty source next blocks target =>
      exact .inr (.inr (.inr (.inr (.inr (.inr (.inr (.inr (.inr
        (.inl ⟨source, ⟨_, next⟩, blocks, target⟩)))))))))
    | decBlock source next last target =>
      exact .inr (.inr (.inr (.inr (.inr (.inr (.inr (.inr (.inr (.inr
        (.inl ⟨source, ⟨_, next⟩, last, target⟩))))))))))
    | tagCheck source next tag target authOk =>
      exact .inr (.inr (.inr (.inr (.inr (.inr (.inr (.inr (.inr (.inr (.inr
        ⟨source, ⟨_, next, tag⟩, target, authOk⟩))))))))))
  · intro s t hs h hq hleft
    cases transition_of_step hs h (fun he => hleft (he.trans hq)) with
    | reset next target err => exact ⟨err, .inl ⟨⟨_, next⟩, target⟩⟩
    | abort next target err => exact ⟨err, .inr (.inl ⟨next, target⟩)⟩
    | abortPending next abrt target err =>
      exact ⟨err, .inr (.inr (.inl ⟨⟨_, _, _, next⟩, abrt, target⟩))⟩
    | error next target fail => exact absurd target hleft
    | encStart source next target err =>
      exact ⟨err, .inr (.inr (.inr (.inl ⟨⟨_, next⟩, target⟩)))⟩
    | decStart source next len target err => exact ⟨err, .inr (.inr (.inr (.inr ⟨next, target⟩)))⟩
    | ivGen source | encBlock source | ivLoad source | ivLoadEmpty source | decBlock source
    | tagCheck source => cases hq.symm.trans source

end Sys2Proof.Machine

/-! # Blocks cut from byte strings and joined again

The bytes of a list of blocks, one block after the other, and the blocks of a byte string: how the
host cuts a plaintext (R240) and how a container is laid out and read (30_encoding.md R130). -/

namespace Sys2Proof.Machine

open Sys2Proof Sys2Proof.Safety

/-! ## Joined blocks -/

/-- The bytes of the blocks, one block after the other: the middle of a container (R130). -/
def joined (bs : List Block) : Bytes := bs.flatMap fun b => b.toList

@[simp] theorem joined_nil : joined [] = [] := rfl

@[simp] theorem joined_cons (b : Block) (bs : List Block) :
    joined (b :: bs) = b.toList ++ joined bs := rfl

@[simp] theorem joined_length (bs : List Block) : (joined bs).length = 16 * bs.length := by
  induction bs with
  | nil => rfl
  | cons b bs ih =>
    simp only [joined_cons, List.length_append, Vector.length_toList, ih, List.length_cons,
      Config.blockLen]
    omega

/-- A cut within the blocks after the first leaves the first whole. -/
theorem joined_cons_take (b : Block) (bs : List Block) (n : Nat) :
    (joined (b :: bs)).take (16 + n) = b.toList ++ (joined bs).take n := by
  simp [List.take_append]

/-- A cut within the first block. -/
theorem joined_cons_take_le (b : Block) (bs : List Block) {n : Nat} (hn : n ≤ 16) :
    (joined (b :: bs)).take n = firstBytes n b :=
  List.take_append_of_le_length (by simpa using hn)

/-- The first n bytes of a block whose first n bytes come from src are those of src. -/
theorem firstBytes_overlay (n : Nat) (src dst : Block) :
    firstBytes n (overlay n src dst) = firstBytes n src := by
  refine List.ext_getElem (by simp [firstBytes]) fun i hi _ => ?_
  have hin : i < n := by
    simp only [firstBytes, List.length_take] at hi
    omega
  simp [firstBytes, hin]

/-! ## Blocks of a byte string -/

/-- The first n blocks of a byte string, with zeros beyond its end. -/
def blocksOf (n : Nat) (b : Bytes) : List Block :=
  (List.range n).map fun i => blockOf (b.drop (Config.blockLen * i))

@[simp] theorem blocksOf_length (n : Nat) (b : Bytes) : (blocksOf n b).length = n := by
  simp [blocksOf]

theorem blocksOf_succ (n : Nat) (b : Bytes) :
    blocksOf (n + 1) b = blockOf b :: blocksOf n (b.drop 16) := by
  simp [blocksOf, List.range_succ_eq_map, Function.comp_def, Nat.mul_add, Nat.add_comm]

/-- The host's blocks of a plaintext are the first N of its bytes (R240). -/
theorem plainBlocks_eq (plain : Bytes) :
    plainBlocks plain = blocksOf (blockCount plain.length) plain := rfl

@[simp] theorem plainBlocks_length (plain : Bytes) :
    (plainBlocks plain).length = blockCount plain.length := by
  rw [plainBlocks_eq, blocksOf_length]

/-- The empty plaintext has one block too (R242). -/
theorem plainBlocks_cons (plain : Bytes) : ∃ b rest, plainBlocks plain = b :: rest :=
  List.exists_cons_of_ne_nil (List.ne_nil_of_length_pos
    (Nat.lt_of_lt_of_eq (blockCount_pos _) (plainBlocks_length plain).symm))

/-- The block of a byte string that begins with a block's bytes is that block. -/
theorem blockOf_append (b : Block) (rest : Bytes) : blockOf (b.toList ++ rest) = b := by
  ext i hi
  rw [blockOf_getElem _ _ hi, byteAt_append rest (by simpa using hi), byteAt_toList _ _ hi]

/-- The first n bytes of a byte string's first block, when the string has them. -/
theorem firstBytes_blockOf {b : Bytes} {n : Nat} (hb : n ≤ b.length) (hn : n ≤ 16) :
    firstBytes n (blockOf b) = b.take n := by
  refine List.ext_getElem (by simp [firstBytes, hb, hn]) fun i hi _ => ?_
  have hin : i < n := by
    simp only [firstBytes, List.length_take] at hi
    omega
  have hib : i < b.length := by omega
  simp [firstBytes, byteAt, List.getD, hib]

/-- Cutting into blocks undoes joining. -/
theorem blocksOf_joined (bs : List Block) (rest : Bytes) :
    blocksOf bs.length (joined bs ++ rest) = bs := by
  induction bs with
  | nil => rfl
  | cons b bs ih =>
    rw [List.length_cons, blocksOf_succ, joined_cons, List.append_assoc, blockOf_append,
      List.drop_left' (by simp), ih]

/-- Joining the blocks of a byte string gives it back, but for the zeros beyond its end. -/
theorem joined_blocksOf_take {n : Nat} {b : Bytes} (h : b.length ≤ 16 * n) :
    (joined (blocksOf n b)).take b.length = b := by
  induction n generalizing b with
  | zero =>
    obtain rfl : b = [] := List.length_eq_zero_iff.1 (Nat.le_zero.1 h)
    rfl
  | succ n ih =>
    rw [blocksOf_succ]
    by_cases hb : b.length ≤ 16
    · rw [joined_cons_take_le _ _ hb, firstBytes_blockOf le_rfl hb, List.take_length]
    · have hdrop : b.length = 16 + (b.drop 16).length := by
        rw [List.length_drop]
        omega
      have hfirst : (blockOf b).toList = b.take 16 := by
        rw [← firstBytes_blockOf (by omega) le_rfl]
        simp [firstBytes]
      rw [hdrop, joined_cons_take, hfirst, ih (by omega), List.take_append_drop]

/-! ## The parts of a container -/

theorem containerBlocks_containerLen (N : Nat) : containerBlocks (containerLen N) = N :=
  (wellFormedLengths.2 N).1

/-- A block read from a container is the block that begins where it stands. -/
theorem blockOf_take (b : Bytes) : blockOf (b.take Config.blockLen) = blockOf b := by
  ext i hi
  simp [byteAt, List.getD, Nat.lt_of_lt_of_eq hi rfl]

section Container

variable (iv : Block) (bs : List Block) (tag : Tag)

theorem container_eq : container iv bs tag = iv.toList ++ (joined bs ++ tag.toList) :=
  List.append_assoc _ _ _

/-- A container's length is the one R131 gives for its number of blocks. -/
theorem container_length : (container iv bs tag).length = containerLen bs.length := by
  simp only [container_eq, containerLen_eq, List.length_append, Vector.length_toList, joined_length,
    Config.blockLen, Config.tagLen]
  omega

theorem blockOf_containerIv : blockOf (containerIv (container iv bs tag)) = iv := by
  rw [containerIv, container_eq, List.take_left' (by simp), blockOf_toList]

theorem tagOf_containerTag : tagOf (containerTag (container iv bs tag)) = tag := by
  have hdrop : containerTag (container iv bs tag) = tag.toList := by
    have hlen : (container iv bs tag).length - Config.tagLen =
        (iv.toList ++ joined bs).length := by
      simp [container_eq, ← Nat.add_assoc]
    rw [containerTag, hlen]
    exact List.drop_left' rfl
  ext i hi
  rw [hdrop, tagOf_getElem _ _ hi, byteAt_toList _ _ hi]

/-- The ciphertext blocks that decryption reads from a container are those put into it (R130). -/
theorem containerBlock_container :
    ((List.range (containerBlocks (container iv bs tag).length)).map fun i =>
      blockOf (containerBlock (container iv bs tag) i)) = bs := by
  have hcut : ∀ i, blockOf (containerBlock (container iv bs tag) i) =
      blockOf ((joined bs ++ tag.toList).drop (Config.blockLen * i)) := by
    intro i
    rw [containerBlock, blockOf_take, container_eq, ← List.drop_drop, List.drop_left' (by simp)]
  simp only [hcut, container_length, containerBlocks_containerLen]
  exact blocksOf_joined bs tag.toList

end Container

end Sys2Proof.Machine

/-! # Whole operations

The encrypt and the decrypt operation as one equation each: the container that encryption makes, and
what decryption makes of such a container (45_encrypt_path.md R240; 46_decrypt_path.md R270). The
round trip of R298 and the empty plaintext of R299 follow. -/

namespace Sys2Proof.Machine

open Sys2Proof Sys2Proof.Safety

/-! ## NAME_APPEND -/

/-- Settles O35: `performNameAppend` at a completion with no failed call, where NAME_APPEND 0 has
none to fail. -/
theorem nameAppendCompletes : Obligations.NameAppendCompletes := by
  intro n s p pf hc hp ha ho hpf
  have hcall : (!(calls Config.params (.nameAppend n) p s).isEmpty && pf) = false := by
    rcases hpf with rfl | rfl
    · exact Bool.and_false _
    · rfl
  have hperform : perform Config.params (.nameAppend n) p s =
      .ok { s with hmsg := s.hmsg ++ p.counted n } := rfl
  rw [exec_completes rfl hc hp, complete_ok ha ho hcall hperform]
  rfl

section Operations

variable {P : Config.Params}

/-! ## Commands of an encrypt operation -/

/-- ENC_START on a size L: the counters of L, an empty BUF and a hash fed with L (R241). -/
theorem runCommand_encStart {s : State} (hl : legal .encStart s.state = true) (L : Size) :
    ∃ t, runCommand P .encStart { s with len := L } = .ok t ∧ t.state = .eName ∧
      t.secret = s.secret ∧ t.buf = zeroBlock ∧ t.hmsg = le64 L ∧ t.rem = remainderOf L ∧
      t.blkrem.toNat = blockCount L.toNat ∧ t.lastCnt.toNat = lastCount L.toNat := by
  refine ⟨_, runCommand_of_legal hl, rfl, rfl, rfl, rfl, rfl, ?_, lastCount_toNat _⟩
  exact Nat.mod_eq_of_lt ((blockCount_le (Config.size_lt L)).trans_lt (by decide))

/-- NAME_APPENDs feed their bytes to the hash and change nothing else but DIN (R246). -/
theorem runNames_eName (names : List (BitVec 5 × Block)) {s : State} (hq : s.state = .eName) :
    ∃ din, runNames P names s =
      .ok { s with din := din, hmsg := s.hmsg ++ namesBytes names } := by
  induction names generalizing s with
  | nil => exact ⟨s.din, by simp [runNames, namesBytes]⟩
  | cons x names ih =>
    have hrun : runCommand P (.nameAppend x.1) { s with din := x.2 } =
        .ok { s with din := x.2, hmsg := s.hmsg ++ firstBytes x.1.toNat x.2 } :=
      runCommand_of_legal (by simp [legal, hq])
    obtain ⟨din, hrest⟩ := ih (s := { s with
      din := x.2, hmsg := s.hmsg ++ firstBytes x.1.toNat x.2 }) hq
    refine ⟨din, ?_⟩
    simp only [runNames, hrun, hrest, namesBytes, List.flatMap_cons, List.append_assoc]

/-- IV_GEN: the IV of the hashed message, the key stretched from it, and an empty stream (R251). -/
theorem runCommand_ivGen {s : State} (hq : s.state = .eName) :
    ∃ t, runCommand P .ivGen s = .ok t ∧ t.state = .eStream ∧
      t.dout = ivOfMessage P s.hmsg s.rem ∧ t.chain = t.dout ∧
      t.wk = stretchKey P s.secret t.dout ∧ t.mmsg = [] ∧ t.buf = s.buf ∧ t.blkrem = s.blkrem ∧
      t.lastCnt = s.lastCnt :=
  ⟨_, runCommand_of_legal (by simp [legal, hq]), rfl, rfl, rfl, rfl, rfl, rfl, rfl, rfl⟩

/-! ## The blocks of an encrypt operation -/

/-- The blocks that ENC_BLOCKs on the given DINs form in BUF, from what BUF holds before: all are
taken whole but the last, of which m bytes are taken (R262). -/
def bufferedBlocks (m : Nat) : Block → List Block → List Block
  | _, [] => []
  | buf, [b] => [overlay m b buf]
  | _, b :: b' :: rest => b :: bufferedBlocks m b (b' :: rest)

@[simp] theorem bufferedBlocks_length (m : Nat) (buf : Block) (bs : List Block) :
    (bufferedBlocks m buf bs).length = bs.length := by
  induction bs generalizing buf with
  | nil => rfl
  | cons b rest ih =>
    cases rest with
    | nil => rfl
    | cons b' rest => exact congrArg (· + 1) (ih b)

/-- The bytes taken from the DINs are in BUF's blocks as they were in the DINs. -/
theorem joined_bufferedBlocks_take {m : Nat} (hm : m ≤ 16) (buf b : Block) (rest : List Block) :
    (joined (bufferedBlocks m buf (b :: rest))).take (16 * rest.length + m) =
      (joined (b :: rest)).take (16 * rest.length + m) := by
  induction rest generalizing buf b with
  | nil =>
    rw [bufferedBlocks, List.length_nil, Nat.mul_zero, Nat.zero_add, joined_cons_take_le _ _ hm,
      joined_cons_take_le _ _ hm, firstBytes_overlay]
  | cons b' rest ih =>
    rw [bufferedBlocks, List.length_cons,
      show 16 * (rest.length + 1) + m = 16 + (16 * rest.length + m) by omega, joined_cons_take,
      joined_cons_take, ih]

/-- BLKREM = 1 is the count of one block. -/
theorem blkrem_eq_one_iff {x : BitVec 64} : x = 1#64 ↔ x.toNat = 1 := by
  bv_omega

/-- BLKREM = 0 is the count of no block. -/
theorem blkrem_eq_zero_iff {x : BitVec 64} : x = 0#64 ↔ x.toNat = 0 := by
  bv_omega

/-- BLKREM counts down to 0 at the last block. -/
theorem blkrem_pred_eq_zero_iff {x : BitVec 64} : x - 1#64 = 0#64 ↔ x = 1#64 := by
  bv_omega

/-- A block that is not the last replaces BUF (R262). -/
theorem filledBuf_notLast {p : Snap} {s : State} (hblk : s.blkrem ≠ 1#64) :
    filledBuf p s = p.din := by
  rw [filledBuf, encTake, if_neg hblk, overlay_all]

/-- The last block overlays BUF with LASTCNT bytes (R262). -/
theorem filledBuf_last {p : Snap} {s : State} (hblk : s.blkrem = 1#64) :
    filledBuf p s = overlay s.lastCnt.toNat p.din s.buf := by
  rw [filledBuf, encTake, if_pos hblk]

theorem performEncBlock_notLast {p : Snap} {s : State} (hblk : s.blkrem ≠ 1#64) :
    performEncBlock P p s = .ok { s with
      buf := p.din, chain := (encryptBlock P s.wk p.din s.chain).2
      mmsg := s.mmsg ++ (encryptBlock P s.wk p.din s.chain).1.toList
      dout := (encryptBlock P s.wk p.din s.chain).1, doutCnt := 16#5
      blkrem := s.blkrem - 1#64 } := by
  rw [← filledBuf_notLast (p := p) hblk]
  exact if_neg (mt blkrem_pred_eq_zero_iff.1 hblk)

theorem performEncBlock_last {p : Snap} {s : State} {c : Block} (hblk : s.blkrem = 1#64)
    (hc : (encryptBlock P s.wk (overlay s.lastCnt.toNat p.din s.buf) s.chain).1 = c) :
    performEncBlock P p s = .ok { doneClear s with
      dout := c, doutCnt := 16#5, blkrem := s.blkrem - 1#64, state := .done
      tag := P.mac s.wk (s.mmsg ++ c.toList) } := by
  rw [← filledBuf_last (p := p) hblk] at hc
  subst hc
  exact if_pos (blkrem_pred_eq_zero_iff.2 hblk)

/-- ENC_BLOCK on a block that is not the last (R262). -/
theorem runCommand_encBlock_continues {s : State} (hq : s.state = .eStream)
    (hblk : s.blkrem ≠ 1#64) (b : Block) :
    ∃ t, runCommand P .encBlock { s with din := b } = .ok t ∧ t.state = .eStream ∧
      t.wk = s.wk ∧ t.buf = b ∧ t.dout = (encryptBlock P s.wk b s.chain).1 ∧ t.chain = t.dout ∧
      t.mmsg = s.mmsg ++ t.dout.toList ∧ t.blkrem = s.blkrem - 1#64 ∧ t.lastCnt = s.lastCnt :=
  ⟨_, (runCommand_of_legal (by simp [legal, hq])).trans
      (performEncBlock_notLast (s := { s with din := b }) hblk),
    hq, rfl, rfl, rfl, rfl, rfl, rfl, rfl⟩

/-- The last ENC_BLOCK: the stale bytes of BUF fill the block, and TAG is the MAC of the whole
stream (R262, R263). -/
theorem runCommand_encBlock_finishes {s : State} (hq : s.state = .eStream)
    (hblk : s.blkrem = 1#64) (b : Block) :
    ∃ t, runCommand P .encBlock { s with din := b } = .ok t ∧ t.state = .done ∧
      t.dout = (encryptBlock P s.wk (overlay s.lastCnt.toNat b s.buf) s.chain).1 ∧
      t.tag = P.mac s.wk (s.mmsg ++ t.dout.toList) :=
  ⟨_, (runCommand_of_legal (by simp [legal, hq])).trans
      (performEncBlock_last (s := { s with din := b }) hblk rfl),
    rfl, rfl, rfl⟩

/-- ENC_BLOCKs on all blocks that are due: the ciphertext is the stream of R235 over BUF's blocks,
and TAG is its MAC (R262, R263). -/
theorem runEncBlocks_eq (b : Block) (rest : List Block) {s : State} (hq : s.state = .eStream)
    (hblk : s.blkrem.toNat = rest.length + 1) :
    ∃ cs u, runEncBlocks P (b :: rest) s = .ok (cs, u) ∧
      cs = encryptStream P s.wk s.chain (bufferedBlocks s.lastCnt.toNat s.buf (b :: rest)) ∧
      u.state = .done ∧ u.tag = P.mac s.wk (s.mmsg ++ joined cs) := by
  induction rest generalizing b s with
  | nil =>
    obtain ⟨t, hrun, hdone, hdout, htag⟩ := runCommand_encBlock_finishes (P := P) hq
      (blkrem_eq_one_iff.2 hblk) b
    refine ⟨[t.dout], t, by simp [runEncBlocks, hrun], ?_, hdone, by simp [htag]⟩
    rw [bufferedBlocks, encryptStream, ← hdout, encryptStream]
  | cons b' rest ih =>
    obtain ⟨t, hrun, hqt, hwk, hbuf, hdout, hchain, hmmsg, hblkt, hlast⟩ :=
      runCommand_encBlock_continues (P := P) hq
        (by rw [Ne, blkrem_eq_one_iff, hblk, List.length_cons]; omega) b
    obtain ⟨cs, u, hrest, hcs, hdone, htag⟩ := ih b' hqt
      (by rw [hblkt, blkrem_pred_toNat (by omega), hblk]; rfl)
    refine ⟨t.dout :: cs, u, ?_, ?_, hdone, by simp [htag, hwk, hmmsg]⟩
    · rw [runEncBlocks, hrun]
      simp only [hrest]
    · rw [hcs, bufferedBlocks, encryptStream, ← hdout, hwk, hchain, hbuf, hlast, hdout]
      rfl

/-! ## The container of an encrypt operation -/

/-- The ciphertext of the blocks ps under an IV and the key stretched from it (R211, R235). -/
def ciphertext (P : Config.Params) (secret : Bytes) (iv : Block) (ps : List Block) : List Block :=
  encryptStream P (stretchKey P secret iv) iv ps

/-- The container of the blocks ps under an IV: the ciphertext and its MAC (R130, R263). -/
def sealedContainer (P : Config.Params) (secret : Bytes) (iv : Block) (ps : List Block) : Bytes :=
  container iv (ciphertext P secret iv ps)
    (P.mac (stretchKey P secret iv) (joined (ciphertext P secret iv ps)))

/-- What an encrypt operation passes to the cipher for a plaintext: BUF starts from zeros, and the
last block takes LASTCNT bytes (R241, R262). -/
def paddedBlocks (plain : Bytes) : List Block :=
  bufferedBlocks (lastCount plain.length) zeroBlock (plainBlocks plain)

/-- The encrypt operation: the container of the plaintext's blocks under the derived IV (R240,
R265). -/
theorem encryptFile_eq (names : List (BitVec 5 × Block)) (plain : Bytes) {s : State}
    (hl : legal .encStart s.state = true) (hlen : plain.length < 2 ^ 64) :
    ∃ u, encryptFile P names plain s = .ok (sealedContainer P s.secret
        (deriveIV P (BitVec.ofNat 64 plain.length) (namesBytes names)) (paddedBlocks plain), u) ∧
      u.state = .done := by
  obtain ⟨s1, hstart, hq1, hsec1, hbuf1, hhmsg1, hrem1, hblk1, hlast1⟩ :=
    runCommand_encStart (P := P) hl (BitVec.ofNat 64 plain.length)
  obtain ⟨din, hnames⟩ := runNames_eName (P := P) names hq1
  obtain ⟨s3, hiv, hq3, hdout, hchain, hwk, hmmsg, hbuf, hblk, hlast⟩ := runCommand_ivGen (P := P)
    (s := { s1 with din := din, hmsg := s1.hmsg ++ namesBytes names }) hq1
  have hL : (BitVec.ofNat 64 plain.length).toNat = plain.length := Nat.mod_eq_of_lt hlen
  rw [hL] at hblk1 hlast1
  obtain ⟨b, rest, hplain⟩ := plainBlocks_cons plain
  have hcount : s3.blkrem.toNat = rest.length + 1 := by
    rw [hblk, ← List.length_cons (a := b), ← hplain, plainBlocks_length]
    exact hblk1
  obtain ⟨cs, u, hblocks, hcs, hdone, htag⟩ := runEncBlocks_eq (P := P) b rest hq3 hcount
  have hderived : s3.dout = deriveIV P (BitVec.ofNat 64 plain.length) (namesBytes names) := by
    rw [hdout, hhmsg1, hrem1]
    rfl
  have hcipher : cs = ciphertext P s.secret s3.dout (paddedBlocks plain) := by
    rw [hcs, hwk, hchain, hlast, hbuf, hbuf1, hlast1, hsec1, ciphertext, paddedBlocks, hplain]
  refine ⟨u, ?_, hdone⟩
  simp only [encryptFile, Config.sizeBits, hstart, hnames, hiv, hplain, hblocks]
  rw [htag, hmmsg, hwk, List.nil_append, hsec1, hcipher, ← hderived]
  rfl

/-! ## Commands of a decrypt operation -/

/-- DEC_START on the length of a container of N blocks (R271). -/
theorem runCommand_decStart {s : State} (hl : legal .decStart s.state = true) {N : Nat}
    (hN : containerLen N < 2 ^ 64) :
    ∃ t, runCommand P .decStart { s with len := BitVec.ofNat 64 (containerLen N) } = .ok t ∧
      t.state = .dIv ∧ t.secret = s.secret ∧ t.blkrem.toNat = N := by
  have hlen : (BitVec.ofNat 64 (containerLen N)).toNat = containerLen N := Nat.mod_eq_of_lt hN
  have hwf : wellFormedLen (BitVec.ofNat 64 (containerLen N)).toNat = true := by
    rw [hlen]
    exact (wellFormedLengths.1 _).2 ⟨N, containerLen_eq N⟩
  have hblk : (BitVec.ofNat 64 (containerBlocks (BitVec.ofNat 64 (containerLen N)).toNat)).toNat =
      N := by
    rw [hlen, containerBlocks_containerLen]
    rw [containerLen_eq] at hN
    exact Nat.mod_eq_of_lt (by omega)
  exact ⟨_, (runCommand_of_legal (s := { s with len := BitVec.ofNat 64 _ }) hl).trans
    (performDecStart_wellFormed _ hwf), rfl, rfl, hblk⟩

/-- IV_LOAD: the IV's remainder, the key stretched from it, and an empty stream (R276). -/
theorem runCommand_ivLoad {s : State} (hq : s.state = .dIv) (iv : Block) :
    ∃ t, runCommand P .ivLoad { s with din := iv } = .ok t ∧
      t.state = (if s.blkrem = 0#64 then .dTag else .dStream) ∧
      t.rem = lowNibble (lastByte iv) ∧ t.wk = stretchKey P s.secret iv ∧ t.chain = iv ∧
      t.mmsg = [] ∧ t.blkrem = s.blkrem :=
  ⟨_, runCommand_of_legal (by simp [legal, hq]), rfl, rfl, rfl, rfl, rfl, rfl⟩

/-- The first DOUT_CNT bytes of an output cut to n bytes (R285, R286). -/
theorem firstBytes_trimmed {n : Nat} (hn : n ≤ Config.blockLen) (b : Block) :
    firstBytes (BitVec.ofNat 5 n).toNat (overlay n b zeroBlock) = firstBytes n b := by
  have hcnt : (BitVec.ofNat 5 n).toNat = n := by
    rw [Config.blockLen_eq] at hn
    exact Nat.mod_eq_of_lt (by omega)
  rw [hcnt, firstBytes_overlay]

/-- DEC_BLOCK: what it emits, and the next block or D_TAG (R285). -/
theorem runCommand_decBlock {s : State} (hq : s.state = .dStream) (c : Block) :
    ∃ t, runCommand P .decBlock { s with din := c } = .ok t ∧
      t.state = (if t.blkrem = 0#64 then .dTag else .dStream) ∧ t.blkrem = s.blkrem - 1#64 ∧
      t.rem = s.rem ∧ t.wk = s.wk ∧ t.chain = c ∧ t.mmsg = s.mmsg ++ c.toList ∧
      firstBytes t.doutCnt.toNat t.dout =
        firstBytes (decYield s) (decryptBlock P s.wk c s.chain).1 := by
  refine ⟨_, runCommand_of_legal (by simp [legal, hq]), ?_, rfl, rfl, rfl, rfl, rfl,
    firstBytes_trimmed (decYield_le s) _⟩
  simp only [hq]

/-- TAG_CHECK against the MAC of the stream (R295). -/
theorem runCommand_tagCheck {s : State} (hq : s.state = .dTag) {tag : Tag}
    (htag : P.mac s.wk s.mmsg = tag) :
    ∃ t, runCommand P .tagCheck { s with tagin := tag } = .ok t ∧ t.state = .done ∧
      t.authOk = true :=
  ⟨_, (runCommand_of_legal (by simp [legal, hq])).trans (if_pos ((ctEq_iff _ _).2 htag)), rfl, rfl⟩

/-! ## The blocks of a decrypt operation -/

/-- The last DEC_BLOCK emits the bytes that R135 counts for a final block. -/
theorem decYield_last {s : State} (hblk : s.blkrem.toNat = 1) :
    decYield s = finalYield s.rem.toNat := by
  have hrem : s.rem ≠ 0 ↔ s.rem.toNat ≠ 0 := by
    rw [Ne, ← BitVec.toNat_inj]
    rfl
  simp only [decYield, finalYield, blkrem_eq_one_iff.2 hblk, hrem, true_and]

/-- Every other DEC_BLOCK emits its whole block (R285). -/
theorem decYield_notLast {s : State} (hblk : s.blkrem.toNat ≠ 1) :
    decYield s = Config.blockLen := if_neg fun h => hblk (blkrem_eq_one_iff.1 h.1)

theorem recoveredLen_one (rem : Nat) : recoveredLen 1 rem = finalYield rem := by
  simp [recoveredLen]

theorem recoveredLen_add_two (n rem : Nat) :
    recoveredLen (n + 2) rem = 16 + recoveredLen (n + 1) rem := by
  simp only [recoveredLen, Config.blockLen, if_neg (Nat.succ_ne_zero _), Nat.add_sub_cancel]
  omega

theorem finalYield_le (rem : Remainder) : finalYield rem.toNat ≤ 16 := by
  have := Config.remainder_lt rem
  unfold finalYield
  split
  · omega
  · exact le_rfl

/-- DEC_BLOCKs on all blocks that are due, of which there may be none: the emitted bytes are as many
of the decrypted stream as R135 counts, and the MAC has been fed all blocks (R285, R286). -/
theorem runDecBlocks_eq (cs : List Block) {s : State} (hblk : s.blkrem.toNat = cs.length)
    (hq : s.state = if s.blkrem = 0#64 then .dTag else .dStream) :
    ∃ u, runDecBlocks P cs s = .ok ((joined (decryptStream P s.wk s.chain cs)).take
        (recoveredLen cs.length s.rem.toNat), u) ∧
      u.state = .dTag ∧ u.wk = s.wk ∧ u.mmsg = s.mmsg ++ joined cs := by
  induction cs generalizing s with
  | nil =>
    rw [if_pos (blkrem_eq_zero_iff.2 hblk)] at hq
    exact ⟨s, by simp [runDecBlocks, decryptStream], hq, rfl, by simp⟩
  | cons c rest ih =>
    rw [List.length_cons] at hblk
    rw [if_neg (by rw [blkrem_eq_zero_iff]; omega)] at hq
    obtain ⟨t, hrun, hqt, hblkt, hremt, hwk, hchain, hmmsg, hout⟩ :=
      runCommand_decBlock (P := P) hq c
    have hcount : t.blkrem.toNat = rest.length := by
      rw [hblkt, blkrem_pred_toNat (by omega), hblk, Nat.add_sub_cancel]
    obtain ⟨u, hrest, hdone, hwku, hmmsgu⟩ := ih hcount hqt
    refine ⟨u, ?_, hdone, hwku.trans hwk, by rw [hmmsgu, hmmsg, joined_cons, List.append_assoc]⟩
    simp only [runDecBlocks, hrun, hrest, hout, hwk, hchain, hremt, decryptStream]
    congr 2
    cases rest with
    | nil =>
      rw [decYield_last hblk, List.length_singleton, recoveredLen_one,
        joined_cons_take_le _ _ (finalYield_le _)]
      simp [decryptStream]
    | cons c' rest =>
      rw [decYield_notLast (by rw [hblk, List.length_cons]; omega)]
      simp only [List.length_cons]
      rw [recoveredLen_add_two, joined_cons_take]
      simp [firstBytes, decryptBlock]

/-- With a cipher that inverts, the decrypted stream of a ciphertext is what was encrypted
(R235). -/
theorem decryptStream_encryptStream (hP : P.CipherInverse) (k : Key) (chain : Block)
    (ps : List Block) : decryptStream P k chain (encryptStream P k chain ps) = ps := by
  induction ps generalizing chain with
  | nil => rfl
  | cons p ps ih =>
    simp only [encryptStream, decryptStream, encryptBlock, decryptBlock, hP _ _, xorBlock_cancel]
    exact congrArg (p :: ·) (ih _)

@[simp] theorem encryptStream_length (k : Key) (chain : Block) (ps : List Block) :
    (encryptStream P k chain ps).length = ps.length := by
  induction ps generalizing chain with
  | nil => rfl
  | cons p ps ih => exact congrArg (· + 1) (ih _)

/-! ## The length recovered from a container -/

theorem blockCount_eq (L : Nat) : blockCount L = max 1 ((L + 15) / 16) := by
  simp only [blockCount, ceilDiv, Config.blockLen]
  split
  · omega
  · split <;> omega

/-- The whole blocks and the last block's count together take all bytes (R243). -/
theorem blockCount_add_lastCount (L : Nat) : 16 * (blockCount L - 1) + lastCount L = L := by
  simp only [lastCount, Config.blockLen, blockCount_eq]
  split <;> omega

/-- For a plaintext that is not empty R135 recovers the length that R241 took (R298). -/
theorem recoveredLen_blockCount {L : Nat} (hL : 1 ≤ L) :
    recoveredLen (blockCount L) (L % 16) = L := by
  simp only [recoveredLen, finalYield, Config.blockLen, blockCount_eq]
  split
  · omega
  · split <;> omega

/-- The padded blocks begin with the plaintext. -/
theorem joined_paddedBlocks_take (plain : Bytes) :
    (joined (paddedBlocks plain)).take plain.length = plain := by
  obtain ⟨b, rest, hplain⟩ := plainBlocks_cons plain
  have hcount : rest.length = blockCount plain.length - 1 := by
    rw [← plainBlocks_length, hplain, List.length_cons, Nat.add_sub_cancel]
  have hsplit := blockCount_add_lastCount plain.length
  have htake := joined_bufferedBlocks_take (lastCount_le plain.length) zeroBlock b rest
  rw [hcount, hsplit, ← hplain] at htake
  rw [paddedBlocks, htake, plainBlocks_eq]
  exact joined_blocksOf_take (by rw [blockCount_eq]; omega)

/-! ## The round trip -/

theorem sealedContainer_length (secret : Bytes) (iv : Block) (ps : List Block) :
    (sealedContainer P secret iv ps).length = containerLen ps.length := by
  rw [sealedContainer, container_length, ciphertext, encryptStream_length]

/-- The decrypt operation on a container made with the same secret: the tag is accepted, and as many
bytes are emitted as R135 counts from the number of blocks and the IV's remainder (R298). -/
theorem decryptFile_sealedContainer (hP : P.CipherInverse) (iv : Block) (ps : List Block)
    {r : State} (hl : legal .decStart r.state = true) (hlen : containerLen ps.length < 2 ^ 64) :
    ∃ d, decryptFile P (sealedContainer P r.secret iv ps) r = .ok ((joined ps).take
        (recoveredLen ps.length (lowNibble (lastByte iv)).toNat), d) ∧
      d.state = .done ∧ d.authOk = true := by
  have hcs : (ciphertext P r.secret iv ps).length = ps.length := encryptStream_length _ _ _
  obtain ⟨s1, hstart, hq1, hsec1, hblk1⟩ := runCommand_decStart (P := P) hl hlen
  obtain ⟨s2, hiv, hq2, hrem2, hwk2, hchain2, hmmsg2, hblk2⟩ :=
    runCommand_ivLoad (P := P) hq1 iv
  rw [← hblk2] at hq2
  rw [hsec1] at hwk2
  obtain ⟨s3, hblocks, hq3, hwk3, hmmsg3⟩ := runDecBlocks_eq (P := P) (ciphertext P r.secret iv ps)
    (by rw [hblk2, hblk1, hcs]) hq2
  have hplain : decryptStream P s2.wk s2.chain (ciphertext P r.secret iv ps) = ps := by
    rw [hwk2, hchain2]
    exact decryptStream_encryptStream hP _ _ _
  rw [hplain, hcs, hrem2] at hblocks
  have hmac : P.mac s3.wk s3.mmsg =
      P.mac (stretchKey P r.secret iv) (joined (ciphertext P r.secret iv ps)) := by
    rw [hwk3, hwk2, hmmsg3, hmmsg2, List.nil_append]
  obtain ⟨d, hcheck, hdone, hauth⟩ := runCommand_tagCheck hq3 hmac
  refine ⟨d, ?_, hdone, hauth⟩
  rw [← sealedContainer_length (P := P) r.secret iv ps] at hstart
  simp only [sealedContainer] at hstart
  simp only [decryptFile, Config.sizeBits, hstart, sealedContainer, blockOf_containerIv,
    tagOf_containerTag, containerBlock_container, hiv, hblocks, hcheck]

@[simp] theorem paddedBlocks_length (plain : Bytes) :
    (paddedBlocks plain).length = blockCount plain.length := by
  rw [paddedBlocks, bufferedBlocks_length, plainBlocks_length]

/-- The remainder that a derived IV carries is that of the length (R202). -/
theorem remainder_deriveIV (L : Size) (name : Bytes) :
    (lowNibble (lastByte (deriveIV P L name))).toNat = L.toNat % 16 := by
  rw [deriveIV, ivOfMessage, lastByte_withRemainder, lowNibble_withLowNibble, remainderOf_toNat]

/-- The two operations one after the other: decryption emits the bytes of the padded blocks up to
the length recovered from the container (R298). -/
theorem decrypt_after_encrypt (hP : P.CipherInverse) {s r : State}
    (names : List (BitVec 5 × Block)) {plain : Bytes} (hs : legal .encStart s.state = true)
    (hr : legal .decStart r.state = true) (hsec : s.secret = r.secret)
    (hlen : plain.length ≤ 2 ^ 64 - 64) :
    ∃ c u d, encryptFile P names plain s = .ok (c, u) ∧ u.state = .done ∧
      c.length = containerLen (blockCount plain.length) ∧
      decryptFile P c r = .ok ((joined (paddedBlocks plain)).take
        (recoveredLen (blockCount plain.length) (plain.length % 16)), d) ∧
      d.state = .done ∧ d.authOk = true := by
  have hcount := blockCount_eq plain.length
  have hL : (BitVec.ofNat 64 plain.length).toNat = plain.length := Nat.mod_eq_of_lt (by omega)
  obtain ⟨u, henc, hdone⟩ := encryptFile_eq (P := P) names plain hs (by omega)
  rw [hsec] at henc
  obtain ⟨d, hdec, hddone, hauth⟩ := decryptFile_sealedContainer hP
    (deriveIV P (BitVec.ofNat 64 plain.length) (namesBytes names)) (paddedBlocks plain) hr
    (by rw [paddedBlocks_length, containerLen_eq]; omega)
  rw [paddedBlocks_length, remainder_deriveIV, hL] at hdec
  exact ⟨_, u, d, henc, hdone, by rw [sealedContainer_length, paddedBlocks_length], hdec, hddone,
    hauth⟩

end Operations

/-- Settles O50: the remainder of the length, carried by the IV, and the block count give the length
back, and the padded blocks begin with the plaintext. -/
theorem decryptInvertsEncrypt : Obligations.DecryptInvertsEncrypt := by
  intro P hP s r names plain hs hr hsec hpos hlen
  obtain ⟨c, u, d, henc, hdone, hclen, hdec, hddone, hauth⟩ :=
    decrypt_after_encrypt hP names hs hr hsec hlen
  rw [recoveredLen_blockCount hpos, joined_paddedBlocks_take] at hdec
  refine ⟨c, u, d, henc, hdone, ?_, hdec, hddone, hauth⟩
  rw [hclen, containerLen_eq, blockCount_eq]
  omega

/-- The one block of the empty plaintext is BUF as ENC_START left it (R299). -/
theorem paddedBlocks_nil : paddedBlocks [] = [zeroBlock] :=
  congrArg (fun b => [b]) (overlay_zero _ _)

/-- Settles O51: N and REM are those of a full block, so the block of zeros is emitted whole. -/
theorem emptyPlaintextDecryptsToZeros : Obligations.EmptyPlaintextDecryptsToZeros := by
  intro P hP s r names hs hr hsec
  obtain ⟨c, u, d, henc, hdone, hclen, hdec, hddone, hauth⟩ :=
    decrypt_after_encrypt (plain := []) hP names hs hr hsec (Nat.zero_le _)
  refine ⟨c, u, d, henc, hdone, hclen, ?_, hddone, hauth⟩
  rw [hdec, paddedBlocks_nil]
  rfl

end Sys2Proof.Machine

/-! # The derived IV

Which bits of a derived IV are the hash's and which the length's (42_iv_deriver.md R200, R202). -/

namespace Sys2Proof.Machine

open Sys2Proof

/-! ## The nibbles of a byte -/

theorem lowNibble_toNat (b : Byte) : (lowNibble b).toNat = b.toNat % 16 := by
  rw [lowNibble_eq]
  exact BitVec.toNat_setWidth _ _

/-- The remainder put into the low nibble leaves the high nibble as it is (R133). -/
theorem withLowNibble_shiftRight (b : Byte) (r : Remainder) :
    withLowNibble b r >>> Config.remBits = b >>> Config.remBits := by
  have hmask : (b &&& ~~~Config.remMask) >>> Config.remBits = b >>> Config.remBits := by
    revert b
    decide
  have hrem : (r.setWidth 8) >>> Config.remBits = 0#8 := by
    revert r
    decide
  rw [withLowNibble, BitVec.ushiftRight_or_distrib, hmask, hrem, BitVec.or_zero]

theorem withLowNibble_toNat_div (b : Byte) (r : Remainder) :
    (withLowNibble b r).toNat / 16 = b.toNat / 16 := by
  have h := congrArg BitVec.toNat (withLowNibble_shiftRight b r)
  rwa [BitVec.toNat_ushiftRight, BitVec.toNat_ushiftRight, Nat.shiftRight_eq_div_pow,
    Nat.shiftRight_eq_div_pow] at h

/-! ## The bytes of the IV of a message -/

section IvOfMessage

variable (P : Config.Params) (m : Bytes) (r : Remainder)

/-- The first BLOCK bytes of the digest are the candidate IV (R200). -/
theorem blockOf_hash_getElem (k : Nat) (h : k < Config.blockLen) :
    (blockOf (P.hash m).toList)[k] = (P.hash m)[k]'(Nat.lt_trans h (by decide)) := by
  rw [blockOf_getElem _ _ h, byteAt_toList]

/-- Every byte of the IV but its last is the hash's (R202). -/
theorem ivOfMessage_getElem (k : Nat) (h : k < Config.blockLen - 1) :
    (ivOfMessage P m r)[k]'(Nat.lt_of_lt_pred h) =
      (P.hash m)[k]'(Nat.lt_trans h (by decide)) := by
  rw [ivOfMessage, withRemainder_getElem, if_neg (Nat.ne_of_lt h), blockOf_hash_getElem]

/-- The last byte of the IV is the hash's with the remainder in its low nibble (R200). -/
theorem lastByte_ivOfMessage :
    lastByte (ivOfMessage P m r) = withLowNibble (P.hash m)[Config.blockLen - 1] r := by
  rw [ivOfMessage, lastByte_withRemainder, lastByte, blockOf_hash_getElem]

end IvOfMessage

/-- Settles O44: `deriveIV` is the IV of the message LE64(L) ‖ name, and `remainder_deriveIV` is what
its last low nibble holds. -/
theorem derivedIvCarriesRemainder : Obligations.DerivedIvCarriesRemainder := by
  intro P L name
  refine ⟨fun k hk => ivOfMessage_getElem P (le64 L ++ name) (remainderOf L) k.val hk, ?_, ?_⟩
  · have hlast := lastByte_ivOfMessage P (le64 L ++ name) (remainderOf L)
    calc (lastByte (deriveIV P L name)).toNat / 16
        = (withLowNibble (P.hash (le64 L ++ name))[15] (remainderOf L)).toNat / 16 :=
          congrArg (fun b : Byte => b.toNat / 16) hlast
      _ = (P.hash (le64 L ++ name))[15].toNat / 16 := withLowNibble_toNat_div _ _
  · calc (lastByte (deriveIV P L name)).toNat % 16
        = (lowNibble (lastByte (deriveIV P L name))).toNat := (lowNibble_toNat _).symm
      _ = L.toNat % 16 := remainder_deriveIV L name

end Sys2Proof.Machine

/-! # The key schedule

The stretched key as an iterate of the hash, and the two commands on SECRET (43_key_schedule.md
R210, R214, R216). -/

namespace Sys2Proof.Machine

open Sys2Proof Sys2Proof.Safety

/-! ## Key stretching -/

/-- The first n bytes of a byte string that has them, taken with no padding. -/
theorem firstN_toList {n : Nat} {b : Bytes} (h : n ≤ b.length) :
    (firstN n b).toList = b.take n := by
  refine List.ext_getElem (by simp [h]) fun i hi _ => ?_
  have hib : i < b.length := Nat.lt_of_lt_of_le (by simpa using hi) h
  simp [byteAt, List.getD, hib]

section Stretch

variable (P : Config.Params) (S : Bytes) (k : Nat) (d : Bytes)

/-- The rounds are an iterate: each hashes the whole digest of the one before (R210). -/
theorem stretchRounds_eq_iterate :
    stretchRounds P S k d = (fun x : Bytes => (P.hash (x ++ S)).toList)^[k] d := by
  induction k generalizing d with
  | zero => rfl
  | succ k ih => rw [stretchRounds, ih, Function.iterate_succ_apply]

variable {d}

/-- No round leaves fewer bytes than a working key has. -/
theorem wkLen_le_length_stretchRounds (hd : Config.wkLen ≤ d.length) :
    Config.wkLen ≤ (stretchRounds P S k d).length := by
  induction k generalizing d with
  | zero => exact hd
  | succ k ih => exact ih (by simp)

end Stretch

/-- Settles O43: the rounds are an iterate, and what they leave has the bytes that the cut takes. -/
theorem stretchKeyIsIterated : Obligations.StretchKeyIsIterated := by
  intro P S iv
  have hcut : Config.wkLen ≤ (stretchRounds P S Config.rounds iv.toList).length :=
    wkLen_le_length_stretchRounds P S Config.rounds (by simp)
  rw [stretchKey, keyOf, firstN_toList hcut, stretchRounds_eq_iterate, Config.rounds]

/-! ## SECRET -/

/-- Settles O32: in its legal states KEY_CLEAR performs within its acceptance step. -/
theorem keyClearCompletes : Obligations.KeyClearCompletes :=
  fun _ hb hq => exec_immediate_of_legal rfl rfl hb (legal_keyClear.2 hq)

theorem performKeyAppend_fits {m : Nat} {n : BitVec 5} {p : Snap} (s : State)
    (h : p.keylen.toNat + n.toNat ≤ m) :
    performKeyAppend m n p s = .ok { s with
      secret := p.secret ++ p.counted n, keylen := p.keylen + n.setWidth 32 } :=
  if_neg (Nat.not_lt.2 h)

theorem performKeyAppend_keyOvf {m : Nat} {n : BitVec 5} {p : Snap} (s : State)
    (h : m < p.keylen.toNat + n.toNat) : performKeyAppend m n p s = .error .keyOvf := if_pos h

/-- KEY_APPEND in a state where it is legal performs within its acceptance step (R150, R155). -/
theorem exec_keyAppend {n : BitVec 5} {s : State} (hn : n.toNat ≤ 16) (hb : s.busy = false)
    (hq : Outside s.state) :
    exec (.keyAppend n) s =
      .next (commit s (performKeyAppend Config.params.secretMax n (snapshot s) s)) :=
  exec_immediate_of_legal rfl (decide_eq_true hn) hb (legal_keyAppend.2 hq)

/-- Settles O33: `performKeyAppend` on both sides of the capacity check, at the KEYLEN of the
snapshot. -/
theorem keyAppendCompletes : Obligations.KeyAppendCompletes := by
  intro n s hn hb hq
  rw [exec_keyAppend hn hb hq]
  constructor
  · intro hfits
    rw [performKeyAppend_fits (p := snapshot s) s hfits]
    rfl
  · intro hover
    rw [performKeyAppend_keyOvf (p := snapshot s) s hover]
    rfl

end Sys2Proof.Machine

/-! # The chained block transform

The bytewise XOR of blocks as the XOR of the integers they are, and DecBlock as the inverse of
EncBlock (44_chain_transform.md R230, R231, R232, R235). -/

namespace Sys2Proof.Machine

open Sys2Proof Sys2Proof.Safety

/-! ## The big-endian XOR -/

/-- The integer that the bytes read so far and then `bs` make, most significant byte first. -/
def bigEndianFrom (acc : Nat) (bs : Bytes) : Nat :=
  bs.foldl (fun acc x => acc * 256 + x.toNat) acc

theorem bigEndian_eq (b : Block) : bigEndian b = bigEndianFrom 0 b.toList := rfl

/-- XOR does not carry: it acts on a number's low byte and on the rest apart. -/
theorem mul_add_xor_mul_add (m n : Nat) (x y : Byte) :
    (m * 256 + x.toNat) ^^^ (n * 256 + y.toNat) = (m ^^^ n) * 256 + (x ^^^ y).toNat := by
  have split_byte (k : Nat) (z : Byte) :
      (k * 256 + z.toNat) / 2 ^ 8 = k ∧ (k * 256 + z.toNat) % 2 ^ 8 = z.toNat := by omega
  obtain ⟨hmdiv, hmmod⟩ := split_byte m x
  obtain ⟨hndiv, hnmod⟩ := split_byte n y
  calc (m * 256 + x.toNat) ^^^ (n * 256 + y.toNat)
      = ((m * 256 + x.toNat) ^^^ (n * 256 + y.toNat)) / 2 ^ 8 * 2 ^ 8 +
          ((m * 256 + x.toNat) ^^^ (n * 256 + y.toNat)) % 2 ^ 8 := (Nat.div_add_mod' _ _).symm
    _ = (m ^^^ n) * 256 + (x ^^^ y).toNat := by
      rw [Nat.xor_div_two_pow, Nat.xor_mod_two_pow, hmdiv, hmmod, hndiv, hnmod, BitVec.toNat_xor]
      rfl

/-- The XOR of two byte strings of one length, read on from the XOR of what stood before them. -/
theorem bigEndianFrom_zipWith_xor {as bs : Bytes} (h : as.length = bs.length) (m n : Nat) :
    bigEndianFrom (m ^^^ n) (List.zipWith (· ^^^ ·) as bs) =
      bigEndianFrom m as ^^^ bigEndianFrom n bs := by
  induction as generalizing bs m n with
  | nil =>
    obtain rfl := List.length_eq_zero_iff.1 h.symm
    rfl
  | cons a as ih =>
    cases bs with
    | nil => cases h
    | cons b bs =>
      calc bigEndianFrom ((m ^^^ n) * 256 + (a ^^^ b).toNat) (List.zipWith (· ^^^ ·) as bs)
          = bigEndianFrom ((m * 256 + a.toNat) ^^^ (n * 256 + b.toNat))
              (List.zipWith (· ^^^ ·) as bs) := by rw [mul_add_xor_mul_add]
        _ = bigEndianFrom (m * 256 + a.toNat) as ^^^ bigEndianFrom (n * 256 + b.toNat) bs :=
          ih (Nat.succ.inj h) _ _

theorem xorBlock_toList (a b : Block) :
    (xorBlock a b).toList = List.zipWith (· ^^^ ·) a.toList b.toList := by
  have hzip : xorBlock a b = Vector.zipWith (· ^^^ ·) a b := by
    ext i h
    simp
  rw [hzip, Vector.toList_zipWith]

/-- Settles O47: `xorBlock_getElem` is the bytewise form; the integer form goes byte by byte, as XOR
has no carry from one byte into the next. -/
theorem chainingIsBigEndianXor : Obligations.ChainingIsBigEndianXor := by
  intro a b
  refine ⟨fun i => xorBlock_getElem a b i.val i.isLt, ?_⟩
  calc bigEndian (xorBlock a b)
      = bigEndianFrom (0 ^^^ 0) (List.zipWith (· ^^^ ·) a.toList b.toList) := by
        rw [bigEndian_eq, xorBlock_toList, Nat.xor_self]
    _ = bigEndian a ^^^ bigEndian b := bigEndianFrom_zipWith_xor (by simp) 0 0

/-! ## The inverse property -/

/-- DecBlock takes off the chaining value that EncBlock put on before the cipher (R231, R232). -/
theorem decryptBlock_encryptBlock {P : Config.Params} (hP : P.CipherInverse) (k : Key)
    (p chain : Block) : (decryptBlock P k (encryptBlock P k p chain).1 chain).1 = p := by
  rw [encryptBlock, decryptBlock, hP, xorBlock_cancel]

/-- Settles O48: one block by `decryptBlock_encryptBlock`, the stream by the induction of
`decryptStream_encryptStream`; both next chaining values are the ciphertext by definition. -/
theorem blockTransformInverts : Obligations.BlockTransformInverts := fun _ hP k =>
  ⟨fun p chain => ⟨decryptBlock_encryptBlock hP k p chain, rfl, rfl⟩,
    fun iv ps => decryptStream_encryptStream hP k iv ps⟩

end Sys2Proof.Machine

/-! # The encrypt path

The counters of a file of L bytes, the completions of ENC_START, IV_GEN and ENC_BLOCK, and what a
container is a function of (45_encrypt_path.md R241 to R243, R251, R262 to R265). -/

namespace Sys2Proof.Machine

open Sys2Proof Sys2Proof.Safety

/-! ## The counters of a file -/

/-- The last count in closed form: 1 to 16 unless the file is empty (R241, R243). -/
theorem lastCount_eq (L : Nat) : lastCount L = if L = 0 then 0 else (L - 1) % 16 + 1 := by
  have hsplit := blockCount_add_lastCount L
  rw [blockCount_eq] at hsplit
  split <;> omega

/-- Settles O45: the sum is `blockCount_add_lastCount`, and the last count's range is read off its
closed form. -/
theorem blockCountsAddUp : Obligations.BlockCountsAddUp := by
  intro L
  refine ⟨blockCount_eq L, blockCount_add_lastCount L, lastCount_le L, fun hL => ?_,
    lastCount_mod L, blockCount_le⟩
  rw [lastCount_eq, if_neg hL]
  exact Nat.le_add_left 1 _

/-- The remainder field of a size is the size modulo 16 (R133, R241). -/
theorem remainderOf_eq (L : Size) : remainderOf L = BitVec.ofNat 4 (L.toNat % 16) := by
  rw [← BitVec.toNat_inj, remainderOf_toNat]
  exact (Nat.mod_eq_of_lt (Nat.mod_lt _ (by decide))).symm

/-! ## Completions -/

/-- A busy-class command whose completion nothing disturbs commits what `perform` returns (R151). -/
theorem exec_completes_ok {i : Instr} {s t : State} {p : Snap} (hk : i.class = .busy)
    (hc : s.completing = some false) (hp : s.pend = some ⟨i, p⟩) (ha : s.abrt = false)
    (ho : s.ovr = false) (h : perform Config.params i p s = .ok t) :
    exec i s = .next (endStep (finishOk t)) := by
  rw [exec_completes hk hc hp, complete_ok ha ho (Bool.and_false _) h]

/-- `performEncStart` with the counters of L in closed form (R241). -/
theorem performEncStart_eq (p : Snap) (s : State) :
    performEncStart p s = .ok { opClear s with
      err := .none, dir := false, hmsg := le64 p.len, state := .eName
      blkrem := BitVec.ofNat 64 (max 1 ((p.len.toNat + 15) / 16))
      rem := BitVec.ofNat 4 (p.len.toNat % 16)
      lastCnt := BitVec.ofNat 5 (if p.len = 0#64 then 0 else (p.len.toNat - 1) % 16 + 1) } := by
  have hzero : p.len = 0#64 ↔ p.len.toNat = 0 := BitVec.toNat_inj.symm
  simp only [performEncStart, blockCount_eq, lastCount_eq, remainderOf_eq, hzero]

/-- Settles O34: ENC_START commits `performEncStart`, whose counters `performEncStart_eq` gives. -/
theorem encStartCompletes : Obligations.EncStartCompletes :=
  fun s p hc hp ha ho => exec_completes_ok rfl hc hp ha ho (performEncStart_eq p s)

/-- The masks of R133 as numbers. -/
theorem withLowNibble_eq (b : Byte) (r : Remainder) :
    withLowNibble b r = (b &&& 0xF0#8) ||| r.setWidth 8 := rfl

/-- Settles O36: the IV is `ivOfMessage` of HMSG and REM. -/
theorem ivGenCompletes : Obligations.IvGenCompletes := by
  intro s p hc hp ha ho
  refine ⟨ivOfMessage Config.params s.hmsg s.rem,
    fun k hk => ivOfMessage_getElem _ _ _ k.val hk, ?_, ?_⟩
  · exact (lastByte_ivOfMessage _ _ _).trans (withLowNibble_eq _ _)
  · exact exec_completes_ok rfl hc hp ha ho rfl

/-- Settles O37: a block that is not the last is taken whole, and the cipher's input is DIN ⊕
CHAIN. -/
theorem encBlockContinues : Obligations.EncBlockContinues := by
  intro s p hc hp ha ho hblk
  refine ⟨xorBlock p.din s.chain, fun k => xorBlock_getElem _ _ k.val k.isLt, ?_⟩
  exact exec_completes_ok rfl hc hp ha ho (performEncBlock_notLast hblk)

/-- Settles O38: the cipher's input is BUF overlaid with LASTCNT bytes of DIN, ⊕ CHAIN, and BLKREM
counts down to 0. -/
theorem encBlockFinishes : Obligations.EncBlockFinishes := by
  intro s p hc hp ha ho hblk
  refine ⟨xorBlock (overlay s.lastCnt.toNat p.din s.buf) s.chain, fun k => ?_, ?_⟩
  · exact (xorBlock_getElem _ _ k.val k.isLt).trans
      (congrArg (· ^^^ s.chain[k]) (overlay_getElem _ _ _ k.val k.isLt))
  · have hperform := performEncBlock_last (P := Config.params) (p := p) hblk rfl
    rw [blkrem_pred_eq_zero_iff.2 hblk] at hperform
    exact exec_completes_ok rfl hc hp ha ho hperform

/-! ## The container -/

/-- Settles O52: `encryptFile_eq` names the container, and the starting state and the NAME_APPENDs
enter it through SECRET and the joined name bytes alone. -/
theorem containerIsDetermined : Obligations.ContainerIsDetermined := by
  intro P s r names names' plain hs hr hsec hnames hlen
  obtain ⟨u, hu, -⟩ := encryptFile_eq (P := P) names plain hs hlen
  obtain ⟨v, hv, -⟩ := encryptFile_eq (P := P) names' plain hr hlen
  rw [hsec, hnames] at hu
  exact ⟨_, u, v, hu, hv⟩

end Sys2Proof.Machine

/-! # The decrypt path

The completions of IV_LOAD, DEC_BLOCK and TAG_CHECK, the comparison of tags, and that only a
TAG_CHECK on the right tag gives AUTH_OK (46_decrypt_path.md R276, R285, R295 to R297). -/

namespace Sys2Proof.Machine

open Sys2Proof Sys2Proof.Safety

/-! ## Completions -/

/-- A byte's low nibble is the byte modulo 16 (R15). -/
theorem lowNibble_eq_ofNat (b : Byte) : lowNibble b = BitVec.ofNat 4 (b.toNat % 16) := by
  rw [← BitVec.toNat_inj, lowNibble_toNat]
  exact (Nat.mod_eq_of_lt (Nat.mod_lt _ (by decide))).symm

/-- Settles O40: IV_LOAD commits `performIvLoad`, whose REM is the last low nibble of DIN. -/
theorem ivLoadCompletes : Obligations.IvLoadCompletes := by
  intro s p hc hp ha ho
  have hrem : lowNibble (lastByte p.din) = BitVec.ofNat 4 (p.din[15].toNat % 16) :=
    lowNibble_eq_ofNat _
  rw [← hrem]
  exact exec_completes_ok rfl hc hp ha ho rfl

/-- `performDecBlock` with its test for the last block on BLKREM as it finds it (R285). -/
theorem performDecBlock_eq (P : Config.Params) (p : Snap) (s : State) :
    performDecBlock P p s = .ok { s with
      mmsg := s.mmsg ++ p.din.toList, chain := p.din
      dout := overlay (decYield s) (xorBlock (P.decipher s.wk p.din) s.chain) zeroBlock
      doutCnt := BitVec.ofNat 5 (decYield s), blkrem := s.blkrem - 1#64
      state := if s.blkrem = 1#64 then .dTag else s.state } := by
  simp only [performDecBlock, decryptBlock, blkrem_pred_eq_zero_iff]

/-- Settles O41: DEC_BLOCK commits `performDecBlock`, and DOUT is the decrypted block laid over
zeros. -/
theorem decBlockCompletes : Obligations.DecBlockCompletes := by
  intro s p hc hp ha ho
  refine ⟨decYield s,
    overlay (decYield s) (xorBlock (Config.params.decipher s.wk p.din) s.chain) zeroBlock,
    rfl, fun k => ?_, exec_completes_ok rfl hc hp ha ho (performDecBlock_eq _ p s)⟩
  simp only [Fin.getElem_fin, overlay_getElem, xorBlock_getElem, zeroBlock_getElem]

theorem performTagCheck_match {P : Config.Params} {p : Snap} {s : State}
    (h : P.mac s.wk s.mmsg = p.tagin) :
    performTagCheck P p s = .ok { doneClear s with authOk := true, state := .done } :=
  if_pos ((ctEq_iff _ _).2 h)

theorem performTagCheck_mismatch {P : Config.Params} {p : Snap} {s : State}
    (h : P.mac s.wk s.mmsg ≠ p.tagin) : performTagCheck P p s = .error .auth :=
  if_neg (mt (ctEq_iff _ _).1 h)

/-- A busy-class command whose completion nothing disturbs raises the error that `perform` returns
(R151). -/
theorem exec_completes_error {i : Instr} {s : State} {p : Snap} {e : ErrCode}
    (hk : i.class = .busy) (hc : s.completing = some false) (hp : s.pend = some ⟨i, p⟩)
    (ha : s.abrt = false) (ho : s.ovr = false) (h : perform Config.params i p s = .error e) :
    exec i s = .next (endStep (raiseError e s)) := by
  rw [exec_completes hk hc hp, complete_error ha ho (Bool.and_false _) h]

/-- Settles O42: the two outcomes of `performTagCheck`, committed and raised. -/
theorem tagCheckCompletes : Obligations.TagCheckCompletes := fun _ _ hc hp ha ho =>
  ⟨fun htag => exec_completes_ok rfl hc hp ha ho (performTagCheck_match htag),
    fun htag => exec_completes_error rfl hc hp ha ho (performTagCheck_mismatch htag)⟩

/-! ## The verdict -/

/-- Settles O49: the fold of R296 is 0 exactly on equal tags. -/
theorem tagComparisonIsEquality : Obligations.TagComparisonIsEquality := ctEq_iff

/-- A command that ends in DONE leaves DIR: only ENC_START and DEC_START write it, and they end in
E_NAME and D_IV (R38). -/
theorem perform_dir_of_done {P : Config.Params} {i : Instr} {p : Snap} {s v : State}
    (h : perform P i p s = .ok v) (hq : v.state = .done) : v.dir = s.dir := by
  cases i with
  | encStart => cases h; cases hq
  | decStart => obtain ⟨-, rfl⟩ := performDecStart_ok h; cases hq
  | keyAppend n => obtain ⟨-, rfl⟩ := performKeyAppend_ok h; rfl
  | encBlock => obtain ⟨c, -, ⟨-, rfl⟩ | ⟨-, rfl⟩⟩ := performEncBlock_ok h <;> rfl
  | tagCheck => obtain ⟨-, rfl⟩ := performTagCheck_ok h; rfl
  | abort | keyClear | nameAppend n | ivGen | ivLoad | decBlock => cases h; rfl

/-- A step that ends in DONE leaves DIR. -/
theorem Effect.dir_of_done {s t : State} (h : Effect s t) (hq : t.state = .done) :
    t.dir = s.dir := by
  cases h with
  | held same completing flags => rw [ResultsHeld] at same; rw [same]
  | reset rest => cases hq
  | raised rest c r code => cases hq
  | accepted rest r cls wf allowed => rfl
  | performed rest c r wf allowed secret keylen ok =>
    have hdir := perform_dir_of_done ok hq
    exact hdir

/-- DONE of a decrypt operation is entered only by a TAG_CHECK on the right tag: the other way into
DONE, the last ENC_BLOCK, finds DIR = 0 (R156, R297). -/
theorem tagCheck_of_enters_done {s t : State} (hs : Inv s) (h : step s = .next t)
    (hleft : s.state ≠ .done) (hq : t.state = .done) (hdir : t.dir = true) :
    ∃ p, Undisturbed s .tagCheck p ∧ s.state = .dTag ∧
      Config.params.mac s.wk s.mmsg = p.tagin := by
  obtain ⟨hctl, -, -, ⟨-, -, henc, -, -⟩, -⟩ := hs
  have hsdir : s.dir = true := ((effect_of_step hctl h).dir_of_done hq).symm.trans hdir
  cases transition_of_step hctl h (fun he => hleft (he.symm.trans hq)) with
  | tagCheck source next tag target authOk => exact ⟨_, next, source, tag⟩
  | encBlock source next last target => simp [henc (.inr source)] at hsdir
  | reset _ target | abort _ target | abortPending _ _ target | error _ target
  | encStart _ _ target | decStart _ _ _ target | ivGen _ _ target | ivLoad _ _ _ target
  | ivLoadEmpty _ _ _ target | decBlock _ _ _ target => cases target.symm.trans hq

/-- AUTH_OK is set only on entering DONE of a decrypt operation, since it is 1 exactly in such a
state and DIR does not change in DONE (R39). -/
theorem enters_done_of_authOk {s t : State} (hs : Inv s) (h : step s = .next t)
    (h0 : s.authOk = false) (h1 : t.authOk = true) :
    s.state ≠ .done ∧ t.state = .done ∧ t.dir = true := by
  obtain ⟨-, -, -, ⟨-, hauth', -⟩, -⟩ := stepKeepsInvariant s t hs h
  obtain ⟨hctl, -, -, ⟨-, hauth, -⟩, -⟩ := hs
  obtain ⟨hq, hdir⟩ := hauth'.1 h1
  have hsdir : s.dir = true := ((effect_of_step hctl h).dir_of_done hq).symm.trans hdir
  refine ⟨fun hsq => ?_, hq, hdir⟩
  rw [hauth.2 ⟨hsq, hsdir⟩] at h0
  cases h0

/-- In every state that a step reaches, DONE of a decrypt operation shows AUTH_OK (R297). -/
theorem authOk_of_done {s t : State} (hs : Inv s) (h : step s = .next t) (hq : t.state = .done)
    (hdir : t.dir = true) : t.authOk = true := by
  obtain ⟨-, -, -, ⟨-, hauth, -⟩, -⟩ := stepKeepsInvariant s t hs h
  exact hauth.2 ⟨hq, hdir⟩

/-- Settles O57: both events are an entry into DONE with DIR = 1, which only TAG_CHECK makes, and
the invariant gives AUTH_OK there. -/
theorem authOkOnlyByTagCheck : Obligations.AuthOkOnlyByTagCheck := by
  refine ⟨fun s t hs h hevent => ?_, fun s t => authOk_of_done⟩
  have hentry : s.state ≠ .done ∧ t.state = .done ∧ t.dir = true :=
    hevent.elim (fun hauth => enters_done_of_authOk hs h hauth.1 hauth.2) id
  obtain ⟨hleft, hq, hdir⟩ := hentry
  obtain ⟨p, ⟨⟨hb, hp, rest, hin⟩, -, -⟩, hsq, htag⟩ := tagCheck_of_enters_done hs h hleft hq hdir
  exact ⟨p, rest, hin, hb, hp, hsq, (ctEq_iff _ _).2 htag, htag, authOk_of_done hs h hq hdir, hq⟩

end Sys2Proof.Machine

/-! # Reset

What the platform's reset does in one step, what the window shows after it, and the base case of the
machine's invariant. -/

namespace Sys2Proof.Machine

open Sys2Proof Sys2Proof.Safety

/-! ## The step of a reset -/

/-- Settles O10: a reset takes nothing from the state it finds but the actions that come after it, so
neither BUSY nor a pending command makes a difference. -/
theorem resetInAnyState : Obligations.ResetInAnyState := by
  intro s rest hin
  calc step s = applyInput .reset { s with inputs := rest, completing := none } := step_input hin
    _ = .next (resetAll { s with inputs := rest, completing := none }) := applyInput_reset _
    _ = .next { State.reset with inputs := rest } := rfl

/-! ## The state after reset -/

/-- IDLE and NONE have code 0, and every other field of STATUS is 0 after reset (R36, R300, R341). -/
theorem statusWord_reset : State.reset.statusWord = 0#32 := by decide

/-- LAST is 0 after reset, since STATE is neither E_STREAM nor D_STREAM (R40, R341). -/
theorem last_reset : State.reset.last = false := by
  rw [← Bool.not_eq_true, last_iff]
  rintro ⟨hstate | hstate, -⟩ <;> cases hstate

/-- Settles O11: ID is a constant, CMD is write-only, STATUS, LAST and irq have their lemmas, and each
stored element is the field of `State.reset`. -/
theorem resetValues : Obligations.ResetValues :=
  ⟨rfl, readReg_wo rfl, statusWord_reset, rfl, rfl, rfl, rfl, last_reset, rfl, rfl, rfl, rfl, rfl,
    rfl, rfl, rfl, rfl, rfl, rfl, rfl, rfl, rfl, rfl, rfl, rfl, rfl, rfl, rfl, rfl, rfl, rfl, rfl,
    rfl, irqLevel.2⟩

theorem reset_atRest : AtRest State.reset := ⟨rfl, rfl, rfl, rfl, rfl⟩

/-- Settles O56: after reset the AEO is at rest, and `reset_dataInv` gives the rest of the
invariant. -/
theorem resetHasInvariant : Obligations.ResetHasInvariant :=
  ⟨control_of_atRest reset_atRest, reset_dataInv State.reset.inputs⟩

end Sys2Proof.Machine
